-- ==== Sys2Proof/Word.lean ====
section
/-! DEFINITION. The words the block handles: data elements of 8 bits (DATA_W, 00_scope.md R4) and command words of
16 bits (30_encoding.md R71). Bit 0 is the least significant bit (00_scope.md R9). -/

namespace Sys2Proof

/-- One element of a ring buffer, 8 bits (00_scope.md R4, 92_eei_decisions.md D32). -/
abbrev Byte := BitVec 8

/-- A command word `CMD` of the FG or the IRQ port (30_encoding.md R71). -/
abbrev Word := BitVec 16

end Sys2Proof
end

