-- ==== Sys2Proof/Syntax.lean ====
section
/-! DEFINITION. The operations of the block as syntax: one constructor of `Instr` per row of spec/opcode_table.json
(30_encoding.md R72), and the two contexts that may issue them (60_exceptions.md R164). -/

namespace Sys2Proof

/-- The two execution contexts. Each is an agent that takes micro-steps (00_scope.md R6) and has one command port of
the same name (30_encoding.md R70). -/
inductive Port where
  /-- The foreground context and its command port. -/
  | fg
  /-- The interrupt context and its command port. -/
  | irq
deriving DecidableEq, Repr, Inhabited

/-- The two ring buffers (10_state.md R20). -/
inductive Buf where
  | tx
  | rx
deriving DecidableEq, Repr, Inhabited

/-- The three hooks (10_state.md R25). -/
inductive Hook where
  | sendByte
  | setRxEn
  | setTxEn
deriving DecidableEq, Repr, Inhabited

/-- The seven operations (30_encoding.md R72). -/
inductive Instr where
  /-- `INIT`, 41_foreground.md R110. -/
  | init
  /-- `BIND m`, 41_foreground.md R111: `m` is the new value of `HOOKS`. -/
  | bind (m : BitVec 3)
  /-- `ENQ b`, 41_foreground.md R112. -/
  | enq (b : Byte)
  /-- `DEQ`, 41_foreground.md R115. -/
  | deq
  /-- `RXCNT`, 41_foreground.md R116. -/
  | rxcnt
  /-- `TXRDY`, 42_interrupt.md R130. -/
  | txrdy
  /-- `RXBYTE b`, 42_interrupt.md R131. -/
  | rxbyte (b : Byte)
deriving DecidableEq, Repr

/-- The port an operation is issued on: the column `port` of 30_encoding.md R72. -/
def Instr.port : Instr → Port
  | .init | .bind _ | .enq _ | .deq | .rxcnt => .fg
  | .txrdy | .rxbyte _ => .irq

/-- How much of an operation one turn of its agent runs. -/
inductive Grain where
  /-- One micro-step (00_scope.md R7). -/
  | micro
  /-- All the micro-steps up to the operation's end or its hold, with no step of the other agent between: the
  "operation grain" of 42_interrupt.md R133. -/
  | whole
deriving DecidableEq, Repr, Inhabited

/-- One entry of the schedule: who moves, and how far. -/
structure Turn where
  agent : Port
  grain : Grain
deriving DecidableEq, Repr, Inhabited

end Sys2Proof
end

