-- ==== Sys2Proof/WellFormed.lean ====
section
/-! DEFINITION. Which operations are well formed where. Operand ranges are in the types of `Instr` (a 3-bit mask, an
8-bit byte: every value is valid, 30_encoding.md R73), so one check is left: the port (30_encoding.md R77(c),
60_exceptions.md R164). -/

namespace Sys2Proof

/-- The operation may be issued on the port: `op[3] = 0` operations on FG, `op[3] = 1` callbacks on IRQ
(30_encoding.md R71, R77(c)). -/
def Instr.wellFormedOn (p : Port) (i : Instr) : Bool := decide (i.port = p)

end Sys2Proof
end

