-- ==== Sys2Proof/Decode.lean ====
section
/-! DEFINITION. Command words to operations and back (30_encoding.md R71 to R73, R77). Decoding is total on 16-bit words
and rejects by name; the encoder writes the words of R72. -/

namespace Sys2Proof

/-- Why a word is illegal (30_encoding.md R77). The block answers all of them alike; the names are the model's (log 20). -/
inductive DecodeError where
  /-- R77(a): `op` is `0x0`, `0x6`, `0x7` or `0xA .. 0xF`. -/
  | reservedOpcode
  /-- R77(b): `arg`, or `arg[3]` of BIND, is not zero where R71 says it must be. -/
  | argNotZero
  /-- R77(b): `data` is not zero where R71 says it must be. -/
  | dataNotZero
  /-- R77(c): the operation belongs to the other port. -/
  | wrongPort
deriving DecidableEq, Repr

/-- `op = CMD[15:12]` (30_encoding.md R71). -/
def opField (w : Word) : BitVec 4 := w.extractLsb' 12 4

/-- `arg = CMD[11:8]` (30_encoding.md R71). -/
def argField (w : Word) : BitVec 4 := w.extractLsb' 8 4

/-- `data = CMD[7:0]` (30_encoding.md R71), the byte operand as it stands (R73). -/
def dataField (w : Word) : Byte := w.extractLsb' 0 8

/-- BIND's operand `m = CMD[10:8]` (30_encoding.md R73). -/
def maskField (w : Word) : BitVec 3 := w.extractLsb' 8 3

/-- The operation, where the fields that R71 wants zero are zero: `arg` must be zero if `argFree` is false, `data` if
`dataFree` is false. -/
def checkFields (w : Word) (argFree dataFree : Bool) (i : Instr) : Except DecodeError Instr :=
  if !argFree && argField w != 0 then .error .argNotZero
  else if !dataFree && dataField w != 0 then .error .dataNotZero
  else .ok i

/-- BIND: `arg[3]` and `data` must be zero (30_encoding.md R71). -/
def decodeBind (w : Word) : Except DecodeError Instr :=
  if (argField w).getLsbD 3 then .error .argNotZero
  else checkFields w true false (.bind (maskField w))

/-- What operation a word spells on its own port (30_encoding.md R72, R77(a), R77(b)). -/
def decode (w : Word) : Except DecodeError Instr :=
  match (opField w).toNat with
  | 0x1 => checkFields w false false .init
  | 0x2 => decodeBind w
  | 0x3 => checkFields w false true (.enq (dataField w))
  | 0x4 => checkFields w false false .deq
  | 0x5 => checkFields w false false .rxcnt
  | 0x8 => checkFields w false false .txrdy
  | 0x9 => checkFields w false true (.rxbyte (dataField w))
  | _ => .error .reservedOpcode

/-- What a word presented on a port spells: 30_encoding.md R77 whole, the port check R77(c) included. -/
def decodeOn (p : Port) (w : Word) : Except DecodeError Instr :=
  match decode w with
  | .error e => .error e
  | .ok i => if i.wellFormedOn p then .ok i else .error .wrongPort

/-- The word of an operation: the column `match` of 30_encoding.md R72 with the operand in its field. -/
def encode : Instr → Word
  | .init => 0x1000#16
  | .bind m => 0x2000#16 ||| (m.setWidth 16 <<< 8)
  | .enq b => 0x3000#16 ||| b.setWidth 16
  | .deq => 0x4000#16
  | .rxcnt => 0x5000#16
  | .txrdy => 0x8000#16
  | .rxbyte b => 0x9000#16 ||| b.setWidth 16

/-- One row of the opcode map: a word `c` selects it when `c & mask = pattern` (30_encoding.md R72, `match` there). -/
structure OpRow where
  pattern : Word
  mask : Word
  port : Port
deriving DecidableEq, Repr

/-- The seven rows of 30_encoding.md R72 in its order. -/
def opTable : List OpRow :=
  [⟨0x1000#16, 0xFFFF#16, .fg⟩, ⟨0x2000#16, 0xF8FF#16, .fg⟩, ⟨0x3000#16, 0xFF00#16, .fg⟩, ⟨0x4000#16, 0xFFFF#16, .fg⟩,
   ⟨0x5000#16, 0xFFFF#16, .fg⟩, ⟨0x8000#16, 0xFFFF#16, .irq⟩, ⟨0x9000#16, 0xFF00#16, .irq⟩]

/-- The row of an operation. -/
def Instr.row : Instr → OpRow
  | .init => ⟨0x1000#16, 0xFFFF#16, .fg⟩
  | .bind _ => ⟨0x2000#16, 0xF8FF#16, .fg⟩
  | .enq _ => ⟨0x3000#16, 0xFF00#16, .fg⟩
  | .deq => ⟨0x4000#16, 0xFFFF#16, .fg⟩
  | .rxcnt => ⟨0x5000#16, 0xFFFF#16, .fg⟩
  | .txrdy => ⟨0x8000#16, 0xFFFF#16, .irq⟩
  | .rxbyte _ => ⟨0x9000#16, 0xFF00#16, .irq⟩

/-- The word selects the row. -/
def OpRow.selects (r : OpRow) (w : Word) : Bool := w &&& r.mask == r.pattern

/-- The operation `decode` reads from a word of `nbits` bits given as a number, bit 0 least significant. Every command is
one 16-bit word (30_encoding.md R71, R78); a longer word is none (log 19). -/
def decodeTableWord (nbits w : Nat) : Option Instr :=
  if 16 < nbits then none
  else match decode (BitVec.ofNat 16 (w % 2 ^ nbits)) with
    | .ok i => some i
    | .error _ => none

end Sys2Proof
end

