-- ==== Sys2Proof/Config.lean ====
section
/-! DEFINITION. What an instance fixes at construction (00_scope.md R4) and the model's free choices.
DESIGN CHOICE (log 1): a `Config` is legal by construction (00_scope.md R5): capacities are given by their exponents
and the counter width by what it has beyond the least legal width, so every `Config` is an instance of the hardware and
every instance is a `Config`. -/

namespace Sys2Proof

/-- `SEND_POLICY` (00_scope.md R4). -/
inductive SendPolicy where
  | blocking
  | nonblocking
deriving DecidableEq, Repr, Inhabited

/-- `SCHED` (00_scope.md R4, R7). -/
inductive Sched where
  | preempt
  | interleave
deriving DecidableEq, Repr, Inhabited

/-- The parameters as they are offered at construction, legal or not (00_scope.md R4). -/
structure Params where
  /-- `CAP_TX` -/
  capTx : Nat
  /-- `CAP_RX` -/
  capRx : Nat
  /-- `IDX_W` -/
  idxW : Nat
  /-- `SEND_POLICY` -/
  policy : SendPolicy
  /-- `SCHED` -/
  sched : Sched
deriving DecidableEq, Repr

/-- The parameters of an instance that exists: exactly those that 00_scope.md R5 accepts. -/
structure Config where
  /-- `CAP_TX = 2 ^ kTx` -/
  kTx : Nat
  /-- `CAP_RX = 2 ^ kRx` -/
  kRx : Nat
  /-- The bits `IDX_W` has beyond the least width 00_scope.md R5(b) accepts. -/
  extra : Nat
  /-- `SEND_POLICY` -/
  policy : SendPolicy
  /-- `SCHED` -/
  sched : Sched
deriving DecidableEq, Repr, Inhabited

/-- `CAP(B)`, a power of two (00_scope.md R5(a)). -/
def Config.cap (c : Config) : Buf → Nat
  | .tx => 2 ^ c.kTx
  | .rx => 2 ^ c.kRx

/-- `IDX_W`: `IDX_W >= k + 1` for each buffer (00_scope.md R5(b)). -/
def Config.idxW (c : Config) : Nat := max c.kTx c.kRx + 1 + c.extra

/-- The parameters of the instance the run is about. The spec leaves every one OPEN (00_scope.md R4): no value. -/
opaque Config.built : Config

/-- The schedule after the turns a state lists are used up, by turn number: free, so that whatever is claimed holds of
every interleaving (00_scope.md R7, 60_exceptions.md R157: "a model quantifies over all of them"). DESIGN CHOICE, log 5. -/
opaque Config.freeTurn : Nat → Turn

end Sys2Proof
end

