-- ==== Sys2Proof/Machine/State.lean ====
section
/-! DEFINITION. The state of one Transport instance (10_state.md R20) with the model-level state its runs need
(10_state.md R26, R28; 30_encoding.md R70), the outcomes' reasons, and the state after construction. Plain data. -/

namespace Sys2Proof.Machine

/-- Storage cells, (slot address, byte). A slot that is not listed is unwritten (10_state.md R33). -/
abbrev Memory := List Host.Cell

/-- The canonical form of a storage: slot addresses strictly rising. There is no value an unlisted slot reads as, so no
entry is ever redundant. -/
abbrev Memory.wf (m : Memory) : Prop := m.Pairwise (fun x y => x.1 < y.1)

/-- One ring buffer (10_state.md R20 to R22). `none` in a counter is the spec's own "unwritten" (R31, R33), the state in
which reading it is `Fault(UNINIT)`; it is not a missing reset value (log 3). A counter is a number below `2^IDX_W`
(log 2). -/
@[ext]
structure Ring where
  storage : Memory
  writeIndex : Option Nat
  readIndex : Option Nat
deriving DecidableEq, Repr

/-- The label of INIT's next micro-step (41_foreground.md R110). -/
inductive InitPos where
  | i1 | i2 | i3 | i4 | i5 | i6 | i7
deriving DecidableEq, Repr

/-- The label of BIND's next micro-step with its operand (41_foreground.md R111). -/
inductive BindPos where
  | h1 (m : BitVec 3)
  | h2
deriving DecidableEq, Repr

/-- The label of ENQ's next micro-step, with the operand `b` and the locals `r`, `a` as far as later micro-steps use
them (41_foreground.md R112; log 12). -/
inductive EnqPos where
  | e1 (b : Byte)
  | e2 (b : Byte) (r : Nat)
  | e3 (b : Byte)
  | e4 (b : Byte)
  | e5
  | e6 (a : Bool)
  | e7 (a : Bool)
  | e8
deriving DecidableEq, Repr

/-- The label of DEQ's next micro-step with the locals `w`, `v` (41_foreground.md R115). -/
inductive DeqPos where
  | q1
  | q2 (w : Nat)
  | q3
  | q4 (v : Byte)
  | q5 (v : Byte)
deriving DecidableEq, Repr

/-- The label of RXCNT's next micro-step with the local `w` (41_foreground.md R116). -/
inductive RxcntPos where
  | n1
  | n2 (w : Nat)
deriving DecidableEq, Repr

/-- `fg_pc`: FG's operation in flight and its next micro-step (10_state.md R26). -/
inductive FgPos where
  | init (p : InitPos)
  | bind (p : BindPos)
  | enq (p : EnqPos)
  | deq (p : DeqPos)
  | rxcnt (p : RxcntPos)
deriving DecidableEq, Repr

/-- The label of TXRDY's next micro-step with the locals `w`, `v`, `w2` (42_interrupt.md R130). -/
inductive TxrdyPos where
  | t1
  | t2
  | t3 (w : Nat)
  | t4
  | t5 (v : Byte)
  | t6 (v : Byte)
  | t7
  | t8 (w2 : Nat)
  | t9
deriving DecidableEq, Repr

/-- The label of RXBYTE's next micro-step with the operand `b` and the local `r` (42_interrupt.md R131). -/
inductive RxbytePos where
  | b1 (b : Byte)
  | b2 (b : Byte) (r : Nat)
  | b3 (b : Byte)
  | b4 (b : Byte)
deriving DecidableEq, Repr

/-- The callback in flight and its next micro-step. -/
inductive IrqPos where
  | txrdy (p : TxrdyPos)
  | rxbyte (p : RxbytePos)
deriving DecidableEq, Repr

/-- `irq_pc`: the callback in flight (10_state.md R26). `raced` is the model's mark that an INIT has begun while this
callback was in flight (00_scope.md R7: "a callback overlapping an INIT is a fault"; DEDUCED, log 8). -/
structure IrqRun where
  pos : IrqPos
  raced : Bool
deriving DecidableEq, Repr

/-- Status codes of a response (30_encoding.md R75). -/
inductive Status where
  | ok
  | bufferFull
  | bufferEmpty
  | illegal
deriving DecidableEq, Repr

/-- One response on the FG port (30_encoding.md R74): the status and the unsigned value beside it. -/
structure Response where
  status : Status
  value : Nat
deriving DecidableEq, Repr

/-- One event on the HOOK port (30_encoding.md R76). -/
inductive HookEvent where
  /-- `SEND_BYTE(v)` -/
  | sendByte (v : Byte)
  /-- `SET_RX_EN(b)` -/
  | setRxEn (b : Bool)
  /-- `SET_TX_EN(b)` -/
  | setTxEn (b : Bool)
deriving DecidableEq, Repr

/-- Everything the spec gives the machine, and the schedule of the run. -/
@[ext]
structure State where
  /-- The parameters, fixed at construction; no step changes them (00_scope.md R4; log 1). -/
  cfg : Config
  /-- The transmit ring buffer. -/
  tx : Ring
  /-- The receive ring buffer. -/
  rx : Ring
  /-- `tx_armed` (10_state.md R24); `none` is unwritten (R31, R33). -/
  txArmed : Option Bool
  /-- `HOOKS[2:0]`: bit 0 send_byte, bit 1 set_rx_enabled, bit 2 set_tx_enabled (10_state.md R25). -/
  hooks : BitVec 3
  /-- `fg_pc` (10_state.md R26); `none` is "none in flight". -/
  fg : Option FgPos
  /-- `irq_pc` (10_state.md R26); `none` is "none in flight". -/
  irq : Option IrqRun
  /-- `tx_en`, the collaborator's transmit enable (10_state.md R28); the block never reads it. -/
  txEn : Bool
  /-- `rx_en`, the collaborator's receive enable (10_state.md R28); the block never reads it. -/
  rxEn : Bool
  /-- Command words to come on the FG port, the next one first (30_encoding.md R70). -/
  fgIn : List Word
  /-- Command words to come on the IRQ port, the next one first (30_encoding.md R70). -/
  irqIn : List Word
  /-- Responses given on the FG port, oldest first (30_encoding.md R70, R74). -/
  rspOut : List Response
  /-- The HOOK event history, oldest first (10_state.md R28, 30_encoding.md R70, R76). -/
  hookOut : List HookEvent
  /-- The MODEL's: the interleaving being run, the next turn first (00_scope.md R7; DESIGN CHOICE, log 5). -/
  turns : List Turn
  /-- The MODEL's: how many turns were taken from `Config.freeTurn` (DESIGN CHOICE, log 5). -/
  tick : Nat
deriving DecidableEq, Repr

/-- The faults, 60_exceptions.md R153, complete. A fault ends the run; nothing clears it. -/
inductive Fault where
  /-- F1: raised by TXRDY's micro-step T1 when `send_byte` is unbound (60_exceptions.md R152). Safe: the machine stops where the
  source says both "do nothing" and "fatal". -/
  | unboundSend
  /-- F2 of 60_exceptions.md R153: raised by the micro-step that reads an unwritten counter or `tx_armed` (10_state.md R33), and by one that
  reads an unwritten slot, as R33 permits (log 4). Safe: no value is substituted. -/
  | uninit
  /-- F3: raised by an IRQ micro-step while an INIT is between I1 and I6, or of a callback that an INIT has overlapped
  (41_foreground.md R110, 00_scope.md R7; log 8). Safe: the run stops. -/
  | initRace
deriving DecidableEq, Repr

/-- The refusals: 60_exceptions.md R153 X1 and X2, U13 of 93_implementation_defined.md, and a state 10_state.md R23 gives no meaning. -/
inductive Refusal where
  /-- An operation the model has no meaning for: none (every arm of `exec` calls a meaning). Safe. -/
  | notModelled (mnemonic : String)
  /-- X1: raised by a turn of the IRQ agent whose next command word is illegal (30_encoding.md R77). Safe: that port has no
  response and the spec gives the word no meaning. -/
  | illegalWord
  /-- X2: raised by `State.construct` when the parameters break 00_scope.md R5. Safe: no instance exists. -/
  | badConfig
  /-- U13: raised by `exec` when the operation's own context already has one in flight (a nested callback, a second
  foreground thread); `step` never asks for that. Safe: "a violation cannot be expressed" (70_reset_and_hazards.md R186; log 15). -/
  | contextBusy
  /-- R23 of 10_state.md: raised by `step`, and by every micro-step, of a state whose occupancy of a buffer exceeds its capacity outside an
  INIT: "a model that is handed such a state ... gives it no meaning". No run reaches one. Safe: the machine stops (log 27). -/
  | brokenOccupancy
deriving DecidableEq, Repr

/-- What a micro-step, an operation or a step answers. -/
abbrev Result := Host.Outcome State Fault Refusal

/-- A ring buffer nothing has written (10_state.md R31, "after construction"). -/
def Ring.unwritten : Ring := { storage := [], writeIndex := none, readIndex := none }

/-- An instance right after construction (70_reset_and_hazards.md R180; 10_state.md R31): hooks unbound, everything else of
the block unwritten, nothing in flight, both enables false, no event emitted. -/
def State.constructed (c : Config) : State :=
  { cfg := c
    tx := Ring.unwritten
    rx := Ring.unwritten
    txArmed := none
    hooks := 0#3
    fg := none
    irq := none
    txEn := false
    rxEn := false
    fgIn := []
    irqIn := []
    rspOut := []
    hookOut := []
    turns := []
    tick := 0 }

/-- The machine after power-on: the constructed instance, of whatever legal parameters (00_scope.md R4, 70_reset_and_hazards.md
R180). -/
def State.reset : State := State.constructed Config.built

end Sys2Proof.Machine
end

