-- ==== Sys2Proof/Machine/Ops.lean ====
section
/-! DEFINITION. The named operations every operation of the block is made of: counter arithmetic (00_scope.md R9,
40_ringbuffer.md R90 to R92), access to registers and slots (00_scope.md R10), the micro-steps of PUSH, POP and OCC
(40_ringbuffer.md R93 to R95), hook events and responses (30_encoding.md R74, R76), and entering and leaving a callback
(60_exceptions.md R158, R159), which is all this block has in the place of taking an exception and returning from one. -/

namespace Sys2Proof.Machine

/-! ### Results -/

/-- The second part runs on the state the first one leaves; a fault or a refusal of the first ends both. -/
def andThen (x : Result) (f : State → Result) : Result :=
  match x with
  | .next s => f s
  | .fault e => .fault e
  | .refused e => .refused e

/-- The value of an element, or `Fault(UNINIT)` where nothing has written it. 10_state.md R33: "A micro-step that reads an unwritten counter or
unwritten `tx_armed` raises `Fault(UNINIT)`"; "A model must not substitute zero". Of a slot: "a model may therefore treat it as `Fault(UNINIT)` as
well" (log 4). -/
def orUninit {α : Type} (x : Option α) (f : α → Result) : Result :=
  match x with
  | some a => f a
  | none => .fault .uninit

/-- The next state a result answers, if it answers one. -/
def nextOf : Result → Option State
  | .next s => some s
  | .fault _ => none
  | .refused _ => none

/-- The fault a result answers, if it answers one. -/
def faultOf : Result → Option Fault
  | .next _ => none
  | .fault e => some e
  | .refused _ => none

/-- The refusal a result answers, if it answers one. -/
def refusalOf : Result → Option Refusal
  | .next _ => none
  | .fault _ => none
  | .refused e => some e

/-! ### Counter arithmetic -/

/-- `a -_W b = (a - b) mod 2^W`, in `0 .. 2^W - 1` (00_scope.md R9, 40_ringbuffer.md R90). -/
def counterSub (c : Config) (a b : Nat) : Nat := (((a : Int) - (b : Int)) % ((2 ^ c.idxW : Nat) : Int)).toNat

/-- `i +_W 1 = (i + 1) mod 2^W` (40_ringbuffer.md R91). -/
def counterInc (c : Config) (i : Nat) : Nat := (i + 1) % 2 ^ c.idxW

/-- The slot a counter value designates, `i & (CAP(B) - 1)` (20_memory.md R51). -/
def slotOf (c : Config) (b : Buf) (i : Nat) : Nat := i &&& (c.cap b - 1)

/-! ### Storage -/

/-- The byte of a slot, if it was written. -/
def Memory.read : Memory → Nat → Option Byte
  | [], _ => none
  | (k, v) :: m, a => if a = k then some v else Memory.read m a

/-- Write one slot; addresses stay strictly rising. -/
def Memory.write : Memory → Nat → Byte → Memory
  | [], a, v => [(a, v)]
  | (k, u) :: m, a, v =>
    if a < k then (a, v) :: (k, u) :: m
    else if a = k then (a, v) :: m
    else (k, u) :: Memory.write m a v

/-! ### Registers -/

/-- The ring buffer `B`. -/
def State.ring (s : State) : Buf → Ring
  | .tx => s.tx
  | .rx => s.rx

/-- Replace the ring buffer `B`. -/
def State.setRing (s : State) (b : Buf) (r : Ring) : State :=
  match b with
  | .tx => { s with tx := r }
  | .rx => { s with rx := r }

/-- `B.write_index <- v`. -/
def State.setWriteIndex (s : State) (b : Buf) (v : Nat) : State :=
  s.setRing b { s.ring b with writeIndex := some v }

/-- `B.read_index <- v`. -/
def State.setReadIndex (s : State) (b : Buf) (v : Nat) : State :=
  s.setRing b { s.ring b with readIndex := some v }

/-- `MemRead(B, a)` (00_scope.md R10). -/
def State.memRead (s : State) (b : Buf) (a : Nat) : Option Byte := (s.ring b).storage.read a

/-- `MemWrite(B, a, v)` (00_scope.md R10). -/
def State.memWrite (s : State) (b : Buf) (a : Nat) (v : Byte) : State :=
  s.setRing b { s.ring b with storage := (s.ring b).storage.write a v }

/-- `tx_armed <- v` (10_state.md R24). -/
def State.setArmed (s : State) (v : Bool) : State := { s with txArmed := some v }

/-- `HOOKS <- m` (10_state.md R25). -/
def State.setHooks (s : State) (m : BitVec 3) : State := { s with hooks := m }

/-- Set `fg_pc` (10_state.md R26). -/
def State.setFg (s : State) (p : Option FgPos) : State := { s with fg := p }

/-- The bit of `HOOKS` that says a hook is bound (10_state.md R25). -/
def hookBit : Hook → Nat
  | .sendByte => 0
  | .setRxEn => 1
  | .setTxEn => 2

/-- `bound(H)` (00_scope.md R10, 10_state.md R25). -/
def State.bound (s : State) (h : Hook) : Bool := s.hooks.getLsbD (hookBit h)

/-! ### Occupancy and the micro-steps of PUSH and POP -/

/-- `OCC(B) = B.write_index -_W B.read_index` (40_ringbuffer.md R93); none while a counter is unwritten. -/
def State.occ (s : State) (b : Buf) : Option Nat :=
  match (s.ring b).writeIndex, (s.ring b).readIndex with
  | some w, some r => some (counterSub s.cfg w r)
  | _, _ => none

/-- P1: the producer reads the consumer's index (40_ringbuffer.md R94). -/
def pushRead (b : Buf) (s : State) (k : Nat → Result) : Result := orUninit (s.ring b).readIndex k

/-- P2: `(B.write_index -_W r) == C`, on the producer's own index and the copy `r` (40_ringbuffer.md R94). -/
def pushTest (b : Buf) (r : Nat) (s : State) (k : Bool → Result) : Result :=
  orUninit (s.ring b).writeIndex fun w => k (decide (counterSub s.cfg w r = s.cfg.cap b))

/-- P3: `MemWrite(B, B.write_index & (C-1), v)` (40_ringbuffer.md R94). -/
def pushStore (b : Buf) (v : Byte) (s : State) (k : State → Result) : Result :=
  orUninit (s.ring b).writeIndex fun w => k (s.memWrite b (slotOf s.cfg b w) v)

/-- P4: `B.write_index <- B.write_index +_W 1` (40_ringbuffer.md R94). -/
def pushAdvance (b : Buf) (s : State) (k : State → Result) : Result :=
  orUninit (s.ring b).writeIndex fun w => k (s.setWriteIndex b (counterInc s.cfg w))

/-- O1: the consumer reads the producer's index (40_ringbuffer.md R95). -/
def popRead (b : Buf) (s : State) (k : Nat → Result) : Result := orUninit (s.ring b).writeIndex k

/-- The consumer's occupancy `w -_W B.read_index`, on its own index and the copy `w`: the test of O2 (40_ringbuffer.md R95) and
the count of OCC (R93). -/
def popCount (b : Buf) (w : Nat) (s : State) (k : Nat → Result) : Result :=
  orUninit (s.ring b).readIndex fun r => k (counterSub s.cfg w r)

/-- O3: `MemRead(B, B.read_index & (C-1))` (40_ringbuffer.md R95). -/
def popLoad (b : Buf) (s : State) (k : Byte → Result) : Result :=
  orUninit (s.ring b).readIndex fun r => orUninit (s.memRead b (slotOf s.cfg b r)) k

/-- O4: `B.read_index <- B.read_index +_W 1` (40_ringbuffer.md R95). -/
def popAdvance (b : Buf) (s : State) (k : State → Result) : Result :=
  orUninit (s.ring b).readIndex fun r => k (s.setReadIndex b (counterInc s.cfg r))

/-! ### Hook events and responses -/

/-- The collaborator's enable bits after an event (10_state.md R28): the argument of the last enable event. -/
def State.noteEvent (s : State) : HookEvent → State
  | .sendByte _ => s
  | .setRxEn b => { s with rxEn := b }
  | .setTxEn b => { s with txEn := b }

/-- `emit H(arg)`: one event on the HOOK port (00_scope.md R10). -/
def State.emit (s : State) (e : HookEvent) : State :=
  { s.noteEvent e with hookOut := s.hookOut ++ [e] }

/-- The hook an event calls. -/
def HookEvent.hook : HookEvent → Hook
  | .sendByte _ => .sendByte
  | .setRxEn _ => .setRxEn
  | .setTxEn _ => .setTxEn

/-- `if bound(H): emit H(arg)` (60_exceptions.md R151: an unbound enable hook is a no-op). -/
def State.emitIfBound (s : State) (e : HookEvent) : State :=
  if s.bound e.hook then s.emit e else s

/-- One response on the FG port (30_encoding.md R70, R74). -/
def State.respond (s : State) (st : Status) (v : Nat) : State :=
  { s with rspOut := s.rspOut ++ [⟨st, v⟩] }

/-- `return (status, value)`: the response is given and FG's operation and its locals are gone (00_scope.md R10). -/
def State.returns (s : State) (st : Status) (v : Nat) : State := (s.respond st v).setFg none

/-! ### Callbacks: entry, end, and the INIT race -/

/-- Enter a callback (60_exceptions.md R158): nothing is saved and nothing is switched; the preempted foreground operation keeps
its position and locals in `fg`. -/
def State.enterCallback (s : State) (p : IrqPos) : State := { s with irq := some ⟨p, false⟩ }

/-- `end`: the callback's return (60_exceptions.md R159); there is nothing to restore. -/
def State.endCallback (s : State) : State := { s with irq := none }

/-- Go on to the callback's next micro-step. -/
def State.setIrqPos (s : State) (p : IrqPos) : State :=
  { s with irq := s.irq.map fun c => { c with pos := p } }

/-- INIT's I1 marks a callback that is in flight while INIT begins (log 8). -/
def State.markRaced (s : State) : State :=
  { s with irq := s.irq.map fun c => { c with raced := true } }

/-- An INIT is between I1 and I6: I1 has run and I6 has not (41_foreground.md R110, 60_exceptions.md R153 F3). -/
def State.inInit (s : State) : Bool :=
  match s.fg with
  | some (.init .i2) | some (.init .i3) | some (.init .i4) | some (.init .i5) | some (.init .i6) => true
  | _ => false

/-- The IRQ micro-step about to run is `Fault(INIT_RACE)` (60_exceptions.md R153 F3; 00_scope.md R7; log 8). -/
def State.initRaced (s : State) : Bool :=
  s.inInit || (match s.irq with | some c => c.raced | none => false)

/-! ### States without meaning -/

/-- `occ(B) <= CAP(B)` (10_state.md R23); nothing is asked while a counter is unwritten (R33). -/
def State.within (s : State) (b : Buf) : Bool :=
  match s.occ b with
  | some n => decide (n ≤ s.cfg.cap b)
  | none => true

/-- The state is one that 10_state.md R23 gives a meaning: both occupancies are within the capacities. Between INIT's I1 and I6 nothing is
asked, since I1 to I4 reset the counters one after the other (41_foreground.md R110; log 27). -/
def State.inBounds (s : State) : Bool := s.inInit || (s.within .tx && s.within .rx)

/-- A state that 10_state.md R23 gives no meaning is refused, whatever was to happen in it (log 27). -/
def ifInBounds (s : State) (x : Result) : Result := if s.inBounds then x else .refused .brokenOccupancy

/-! ### Ports and turns -/

/-- The agent of a port has an operation in flight (30_encoding.md R70: at most one). -/
def State.inFlight (s : State) : Port → Bool
  | .fg => s.fg.isSome
  | .irq => s.irq.isSome

/-- The command words to come on a port. -/
def State.words (s : State) : Port → List Word
  | .fg => s.fgIn
  | .irq => s.irqIn

/-- Replace the command words to come on a port. -/
def State.setWords (s : State) (p : Port) (ws : List Word) : State :=
  match p with
  | .fg => { s with fgIn := ws }
  | .irq => { s with irqIn := ws }

/-- The turn to run: the first of `turns`, else the free schedule's at `tick` (log 5). -/
def State.turnOf (s : State) : Turn :=
  match s.turns with
  | t :: _ => t
  | [] => Config.freeTurn s.tick

/-- The state after that turn is taken off the schedule. -/
def State.dropTurn (s : State) : State :=
  match s.turns with
  | _ :: ts => { s with turns := ts }
  | [] => { s with tick := s.tick + 1 }

/-- The agent that moves. Under `SCHED = preempt` a callback in flight moves whatever the turn says: "an IRQ callback, once
started, runs all its micro-steps with no FG micro-step in between" (00_scope.md R7). -/
def State.mover (s : State) (t : Turn) : Port :=
  match s.irq with
  | none => t.agent
  | some _ =>
    match s.cfg.sched with
    | .preempt => .irq
    | .interleave => t.agent

/-! ### Construction -/

/-- A power of two (00_scope.md R5(a)). -/
def isPowerOfTwo (n : Nat) : Bool := n == 2 ^ n.log2

/-- 00_scope.md R5: each capacity is a power of two and `2^IDX_W` exceeds it. -/
def legalParams (p : Params) : Bool :=
  isPowerOfTwo p.capTx && isPowerOfTwo p.capRx && decide (p.capTx < 2 ^ p.idxW) && decide (p.capRx < 2 ^ p.idxW)

/-- The configuration legal parameters describe. -/
def configOf (p : Params) : Config :=
  { kTx := p.capTx.log2
    kRx := p.capRx.log2
    extra := p.idxW - (max p.capTx.log2 p.capRx.log2 + 1)
    policy := p.policy
    sched := p.sched }

/-- Construction (70_reset_and_hazards.md R180): an instance with these parameters, or refusal X2 `BAD_CONFIG`
(00_scope.md R5(c), 60_exceptions.md R153). -/
def State.construct (p : Params) : Result :=
  if legalParams p then .next (State.constructed (configOf p)) else .refused .badConfig

end Sys2Proof.Machine
end

