-- ==== Sys2Proof/Machine/Flags.lean ====
section
/-! DEFINITION. The block's one stored flag, the conditions it derives from its counters (10_state.md R24, R27), and the
transmit-enable triple that the state machine of 42_interrupt.md R132 is made of. -/

namespace Sys2Proof.Machine

/-- Read `tx_armed` (10_state.md R24): ENQ's E5; `Fault(UNINIT)` where nothing has written it (R33). -/
def readArmed (s : State) (k : Bool → Result) : Result := orUninit s.txArmed k

/-- E6: `if a == false: tx_armed <- true` (41_foreground.md R113). -/
def armIf (a : Bool) (s : State) : State := if a then s else s.setArmed true

/-- E7: `if a == false and bound(SET_TX_EN): emit SET_TX_EN(1)` (41_foreground.md R113, 60_exceptions.md R151). -/
def kickIf (a : Bool) (s : State) : State := if a then s else s.emitIfBound (.setTxEn true)

/-- T8: `if occupancy == 0: tx_armed <- false`, the disarm (42_interrupt.md R130, 00_scope.md R12). -/
def disarmIf (occ : Nat) (s : State) : State := if occ = 0 then s.setArmed false else s

/-- `full(B)`: `occ(B) == CAP(B)` (10_state.md R27). -/
def State.full (s : State) (b : Buf) : Bool := s.occ b == some (s.cfg.cap b)

/-- `empty(B)`: `occ(B) == 0` (10_state.md R27). -/
def State.empty (s : State) (b : Buf) : Bool := s.occ b == some 0

/-- FG is held: a blocking ENQ has gone back to E1 (41_foreground.md R114). -/
def State.heldAtE1 (s : State) : Bool :=
  match s.fg with
  | some (.enq (.e1 _)) => true
  | _ => false

/-- The triple `(tx_armed, tx_en, occ(tx))` (42_interrupt.md R132). -/
structure Triple where
  armed : Bool
  enabled : Bool
  queued : Nat
deriving DecidableEq, Repr

/-- The triple of a state; none while `tx_armed` or a transmit counter is unwritten. -/
def State.triple (s : State) : Option Triple :=
  match s.txArmed, s.occ .tx with
  | some a, some n => some ⟨a, s.txEn, n⟩
  | _, _ => none

/-- The named states of the transmit machine (42_interrupt.md R132). ARMED and DRAINING have the same triple and the same
behaviour, so they are one here. LOST_ARM is the state of 70_reset_and_hazards.md R185. -/
inductive TxName where
  | idle
  | armedOrDraining
  | drained
  | lostArm
  | other
deriving DecidableEq, Repr

/-- The name of a triple. -/
def Triple.name (t : Triple) : TxName :=
  match t.armed, t.enabled, t.queued with
  | false, false, 0 => .idle
  | true, true, _ + 1 => .armedOrDraining
  | false, true, 0 => .drained
  | true, false, 0 => .lostArm
  | _, _, _ => .other

/-- ENQ on the triple at operation grain with room in the buffer (42_interrupt.md R133). -/
def Triple.afterEnq (t : Triple) : Triple :=
  if t.armed then { t with queued := t.queued + 1 } else ⟨true, true, t.queued + 1⟩

/-- TXRDY on the triple at operation grain (42_interrupt.md R133). -/
def Triple.afterTxrdy (t : Triple) : Triple :=
  if t.queued = 0 then { t with enabled := false }
  else { t with queued := t.queued - 1, armed := if t.queued = 1 then false else t.armed }

end Sys2Proof.Machine
end

