-- ==== Sys2Proof/Machine/Operands.lean ====
section
/-! DEFINITION. The forms in which values enter and leave the block: response words and hook event words
(30_encoding.md R74 to R76), the value a DEQ or RXCNT response carries, and the command word placed on a port. The operand
fields of a command word are read in Sys2Proof/Decode.lean (R73). -/

namespace Sys2Proof.Machine

/-- `VW = max(8, IDX_W)`, the width of a response's value (30_encoding.md R74). -/
def valueWidth (c : Config) : Nat := max 8 c.idxW

/-- `zext_VW(byte)` (30_encoding.md R74, 41_foreground.md R115). -/
def byteValue (v : Byte) : Nat := v.toNat

/-- `RSP.status` (30_encoding.md R75). -/
def Status.code : Status → BitVec 2
  | .ok => 0b00#2
  | .bufferFull => 0b01#2
  | .bufferEmpty => 0b10#2
  | .illegal => 0b11#2

/-- `RSP = status ++ value`, `2 + VW` bits (30_encoding.md R74). -/
def Response.word (c : Config) (r : Response) : BitVec (2 + valueWidth c) :=
  r.status.code ++ BitVec.ofNat (valueWidth c) r.value

/-- `harg` of an enable event: `0x01` for enable, `0x00` for disable (30_encoding.md R76). -/
def enableArg (b : Bool) : BitVec 8 := if b then 0x01#8 else 0x00#8

/-- `HOOK = id ++ harg`, 10 bits (30_encoding.md R76). -/
def HookEvent.word : HookEvent → BitVec 10
  | .sendByte v => 0b00#2 ++ v
  | .setRxEn b => 0b01#2 ++ enableArg b
  | .setTxEn b => 0b10#2 ++ enableArg b

/-- The port whose opcodes a word's `op[3]` is (30_encoding.md R71). -/
def portOfWord (w : Word) : Port := if w.getLsbD 15 then .irq else .fg

/-- The callback in flight where FG is to move next: under `SCHED = preempt` a callback would move first, so none is left. -/
def clearForFg (c : Config) (r : Option IrqRun) : Option IrqRun :=
  match r with
  | none => none
  | some x =>
    match c.sched with
    | .preempt => none
    | .interleave => some x

/-- One command word is presented on its port, that port's agent has nothing in flight that would come first, and the agent
takes the next turn for the whole operation (log 17). -/
def State.placeWord (s : State) (w : Word) : State :=
  match portOfWord w with
  | .fg =>
    { s with fg := none, irq := clearForFg s.cfg s.irq, fgIn := w :: s.fgIn, turns := ⟨.fg, .whole⟩ :: s.turns }
  | .irq => { s with irq := none, irqIn := w :: s.irqIn, turns := ⟨.irq, .whole⟩ :: s.turns }

end Sys2Proof.Machine
end

