-- ==== Sys2Proof/Machine/Foreground.lean ====
section
/-! DEFINITION. The micro-steps of the five foreground operations (41_foreground.md). Each line is one labelled micro-step
of the operation's rule; it sets `fg` to the next label or returns. -/

namespace Sys2Proof.Machine

/-- INIT, 41_foreground.md R110. I1 also marks a callback in flight (log 8). -/
def initMicro (p : InitPos) (s : State) : Result :=
  match p with
  | .i1 => .next ((s.setWriteIndex .tx 0).markRaced.setFg (some (.init .i2)))
  | .i2 => .next ((s.setReadIndex .tx 0).setFg (some (.init .i3)))
  | .i3 => .next ((s.setWriteIndex .rx 0).setFg (some (.init .i4)))
  | .i4 => .next ((s.setReadIndex .rx 0).setFg (some (.init .i5)))
  | .i5 => .next ((s.setArmed false).setFg (some (.init .i6)))
  | .i6 => .next ((s.emitIfBound (.setRxEn true)).setFg (some (.init .i7)))
  | .i7 => .next (s.returns .ok 0)

/-- BIND, 41_foreground.md R111. -/
def bindMicro (p : BindPos) (s : State) : Result :=
  match p with
  | .h1 m => .next ((s.setHooks m).setFg (some (.bind .h2)))
  | .h2 => .next (s.returns .ok 0)

/-- E2 on a full buffer: the non-blocking policy returns BUFFER_FULL, the blocking one goes back to E1
(41_foreground.md R112, R114). -/
def enqFull (b : Byte) (s : State) : State :=
  match s.cfg.policy with
  | .nonblocking => s.returns .bufferFull 0
  | .blocking => s.setFg (some (.enq (.e1 b)))

/-- ENQ, 41_foreground.md R112: E1 to E4 are PUSH(tx, b), E5 to E7 the arm phase (R113). -/
def enqMicro (p : EnqPos) (s : State) : Result :=
  match p with
  | .e1 b => pushRead .tx s fun r => .next (s.setFg (some (.enq (.e2 b r))))
  | .e2 b r => pushTest .tx r s fun isFull => .next (if isFull then enqFull b s else s.setFg (some (.enq (.e3 b))))
  | .e3 b => pushStore .tx b s fun s' => .next (s'.setFg (some (.enq (.e4 b))))
  | .e4 _ => pushAdvance .tx s fun s' => .next (s'.setFg (some (.enq .e5)))
  | .e5 => readArmed s fun a => .next (s.setFg (some (.enq (.e6 a))))
  | .e6 a => .next ((armIf a s).setFg (some (.enq (.e7 a))))
  | .e7 a => .next ((kickIf a s).setFg (some (.enq .e8)))
  | .e8 => .next (s.returns .ok 0)

/-- DEQ, 41_foreground.md R115: Q1 to Q4 are POP(rx). -/
def deqMicro (p : DeqPos) (s : State) : Result :=
  match p with
  | .q1 => popRead .rx s fun w => .next (s.setFg (some (.deq (.q2 w))))
  | .q2 w => popCount .rx w s fun n => .next (if n = 0 then s.returns .bufferEmpty 0 else s.setFg (some (.deq .q3)))
  | .q3 => popLoad .rx s fun v => .next (s.setFg (some (.deq (.q4 v))))
  | .q4 v => popAdvance .rx s fun s' => .next (s'.setFg (some (.deq (.q5 v))))
  | .q5 v => .next (s.returns .ok (byteValue v))

/-- RXCNT, 41_foreground.md R116: OCC(rx). -/
def rxcntMicro (p : RxcntPos) (s : State) : Result :=
  match p with
  | .n1 => popRead .rx s fun w => .next (s.setFg (some (.rxcnt (.n2 w))))
  | .n2 w => popCount .rx w s fun n => .next (s.returns .ok n)

/-- One micro-step of the foreground operation in flight. -/
def fgMicro (p : FgPos) (s : State) : Result :=
  match p with
  | .init q => initMicro q s
  | .bind q => bindMicro q s
  | .enq q => enqMicro q s
  | .deq q => deqMicro q s
  | .rxcnt q => rxcntMicro q s

end Sys2Proof.Machine
end

