-- ==== Sys2Proof/Machine/Interrupt.lean ====
section
/-! DEFINITION. The micro-steps of the two interrupt callbacks (42_interrupt.md). Each line is one labelled micro-step of
the callback's rule; it sets `irq` to the next label or ends the callback. -/

namespace Sys2Proof.Machine

/-- TXRDY, 42_interrupt.md R130: T2 to T6 are POP(tx) with the SEND_BYTE emission between the slot read and the index update.
T5 does not test `bound(SEND_BYTE)` again: T1 did (log 11). -/
def txrdyMicro (p : TxrdyPos) (s : State) : Result :=
  match p with
  | .t1 => if s.bound .sendByte then .next (s.setIrqPos (.txrdy .t2)) else .fault .unboundSend
  | .t2 => popRead .tx s fun w => .next (s.setIrqPos (.txrdy (.t3 w)))
  | .t3 w => popCount .tx w s fun n => .next (s.setIrqPos (.txrdy (if n = 0 then .t9 else .t4)))
  | .t4 => popLoad .tx s fun v => .next (s.setIrqPos (.txrdy (.t5 v)))
  | .t5 v => .next ((s.emit (.sendByte v)).setIrqPos (.txrdy (.t6 v)))
  | .t6 _ => popAdvance .tx s fun s' => .next (s'.setIrqPos (.txrdy .t7))
  | .t7 => popRead .tx s fun w2 => .next (s.setIrqPos (.txrdy (.t8 w2)))
  | .t8 w2 => popCount .tx w2 s fun n => .next (disarmIf n s).endCallback
  | .t9 => .next (s.emitIfBound (.setTxEn false)).endCallback

/-- RXBYTE, 42_interrupt.md R131: B1 to B4 are PUSH(rx, b); a full buffer drops the byte silently (R136). -/
def rxbyteMicro (p : RxbytePos) (s : State) : Result :=
  match p with
  | .b1 b => pushRead .rx s fun r => .next (s.setIrqPos (.rxbyte (.b2 b r)))
  | .b2 b r => pushTest .rx r s fun isFull => .next (if isFull then s.endCallback else s.setIrqPos (.rxbyte (.b3 b)))
  | .b3 b => pushStore .rx b s fun s' => .next (s'.setIrqPos (.rxbyte (.b4 b)))
  | .b4 _ => pushAdvance .rx s fun s' => .next s'.endCallback

/-- One micro-step of the callback in flight; `Fault(INIT_RACE)` comes before whatever the micro-step would do
(60_exceptions.md R153 F3: "any IRQ micro-step"; log 9). -/
def irqMicro (p : IrqPos) (s : State) : Result :=
  if s.initRaced then .fault .initRace
  else match p with
    | .txrdy q => txrdyMicro q s
    | .rxbyte q => rxbyteMicro q s

end Sys2Proof.Machine
end

