-- ==== Sys2Proof/Machine/Operations.lean ====
section
/-! DEFINITION. An operation as a whole: it is issued, and its micro-steps run one after the other with no step of the other
agent between (the operation grain of 42_interrupt.md R133). One meaning per operation of 30_encoding.md R72. -/

namespace Sys2Proof.Machine

/-- One micro-step of the operation an agent has in flight; nothing where it has none; refused in a state without meaning
(10_state.md R23). -/
def microStep (p : Port) (s : State) : Result :=
  ifInBounds s <| match p with
  | .fg =>
    match s.fg with
    | some q => fgMicro q s
    | none => .next s
  | .irq =>
    match s.irq with
    | some c => irqMicro c.pos s
    | none => .next s

/-- Up to `n` micro-steps of one agent, ending where its operation ends or FG is held at E1 (41_foreground.md R114). -/
def runMicro (p : Port) : Nat → State → Result
  | 0, s => .next s
  | n + 1, s =>
    if s.inFlight p then
      andThen (microStep p s) fun s' => if p = .fg ∧ s'.heldAtE1 then .next s' else runMicro p n s'
    else .next s

/-- No operation has more micro-steps (41_foreground.md R117, 42_interrupt.md R137). -/
def maxMicro : Nat := 8

/-- The operation is in flight before its first micro-step. -/
def startAt (i : Instr) (s : State) : State :=
  match i with
  | .init => s.setFg (some (.init .i1))
  | .bind m => s.setFg (some (.bind (.h1 m)))
  | .enq b => s.setFg (some (.enq (.e1 b)))
  | .deq => s.setFg (some (.deq .q1))
  | .rxcnt => s.setFg (some (.rxcnt .n1))
  | .txrdy => s.enterCallback (.txrdy .t1)
  | .rxbyte b => s.enterCallback (.rxbyte (.b1 b))

/-- Issue an operation and run it whole. Its context must have nothing in flight (30_encoding.md R70, 60_exceptions.md R159). -/
def issue (i : Instr) (s : State) : Result :=
  if s.inFlight i.port then .refused .contextBusy else runMicro i.port maxMicro (startAt i s)

/-- Issue an operation and run its first micro-step. -/
def issueMicro (i : Instr) (s : State) : Result :=
  if s.inFlight i.port then .refused .contextBusy else microStep i.port (startAt i s)

/-- INIT (41_foreground.md R110). -/
def execInit (s : State) : Result := issue .init s

/-- BIND m (41_foreground.md R111). -/
def execBind (m : BitVec 3) (s : State) : Result := issue (.bind m) s

/-- ENQ b (41_foreground.md R112 to R114). -/
def execEnq (b : Byte) (s : State) : Result := issue (.enq b) s

/-- DEQ (41_foreground.md R115). -/
def execDeq (s : State) : Result := issue .deq s

/-- RXCNT (41_foreground.md R116). -/
def execRxcnt (s : State) : Result := issue .rxcnt s

/-- TXRDY (42_interrupt.md R130). -/
def execTxrdy (s : State) : Result := issue .txrdy s

/-- RXBYTE b (42_interrupt.md R131). -/
def execRxbyte (b : Byte) (s : State) : Result := issue (.rxbyte b) s

end Sys2Proof.Machine
end

