-- ==== Sys2Proof/Machine/Dispatch.lean ====
section
/-! DEFINITION. One arm per operation of 30_encoding.md R72. -/

namespace Sys2Proof.Machine

/-- The operation issued in a state and run whole. -/
def exec (i : Instr) (s : State) : Host.Outcome State Fault Refusal :=
  match i with
  | .init => Sys2Proof.Machine.execInit s
  | .bind m => Sys2Proof.Machine.execBind m s
  | .enq b => Sys2Proof.Machine.execEnq b s
  | .deq => Sys2Proof.Machine.execDeq s
  | .rxcnt => Sys2Proof.Machine.execRxcnt s
  | .txrdy => Sys2Proof.Machine.execTxrdy s
  | .rxbyte b => Sys2Proof.Machine.execRxbyte b s

end Sys2Proof.Machine
end

