-- ==== Sys2Proof/Machine/Turns.lean ====
section
/-! DEFINITION. What one turn of an agent does: go on with its operation in flight, or take the next command word of its port
(00_scope.md R7, R8; 30_encoding.md R70, R77). -/

namespace Sys2Proof.Machine

/-- The agent goes on with its operation in flight. -/
def goOn (p : Port) (g : Grain) (s : State) : Result :=
  match g with
  | .micro => microStep p s
  | .whole => runMicro p maxMicro s

/-- An operation is accepted: its first micro-step, or all of it. Accepting is no micro-step of its own (log 7). -/
def accept (g : Grain) (i : Instr) (s : State) : Result :=
  match g with
  | .micro => issueMicro i s
  | .whole => exec i s

/-- An illegal word (30_encoding.md R77): on the FG port it is answered `ILLEGAL` and changes nothing; on the IRQ port, which
has no response, it is refusal X1 (60_exceptions.md R153, 90_conflicts.md C10). -/
def illegal (p : Port) (s : State) : Result :=
  match p with
  | .fg => .next (s.respond .illegal 0)
  | .irq => .refused .illegalWord

/-- The agent has nothing in flight and takes the next word of its port; with no word there is nothing to do (log 16). -/
def takeWord (p : Port) (g : Grain) (s : State) : Result :=
  match s.words p with
  | [] => .next s
  | w :: ws =>
    match decodeOn p w with
    | .error _ => illegal p (s.setWords p ws)
    | .ok i => accept g i (s.setWords p ws)

/-- One turn of an agent. -/
def turn (p : Port) (g : Grain) (s : State) : Result :=
  if s.inFlight p then goOn p g s else takeWord p g s

/-- One step: the next turn is taken off the schedule and the agent that moves runs it; refused in a state without meaning
(10_state.md R23). -/
def takeTurn (s : State) : Result := ifInBounds s (turn (s.mover s.turnOf) s.turnOf.grain s.dropTurn)

/-- The command word of `nbits` bits, bit 0 least significant, as a 16-bit word. -/
def tableWord (nbits w : Nat) : Word := BitVec.ofNat 16 (w % 2 ^ nbits)

end Sys2Proof.Machine
end

