-- ==== Sys2Proof/Machine/Step.lean ====
section
/-! DEFINITION. The step function, and how one command word is presented so that the next step runs it. -/

namespace Sys2Proof.Machine

/-- One step of the machine: one turn of one agent (00_scope.md R6 to R8). -/
def step (s : State) : Host.Outcome State Fault Refusal := takeTurn s

/-- The state with that command word presented on its port and its agent to move next (log 17). -/
def State.withFetchWord (s : State) (nbits w : Nat) : State := s.placeWord (tableWord nbits w)

end Sys2Proof.Machine
end

