-- ==== Sys2Proof/Safety.lean ====
section
/-! DEFINITION. What the claims speak of: the bytes a buffer holds, the invariant of the machine, the end of a run, the
collaborator's premises, and runs at operation grain. No step reads any of it. -/

namespace Sys2Proof.Machine

/-! ### What a buffer holds -/

/-- The bytes pushed and not yet popped, oldest first: the slots of `read_index`, `read_index + 1`, .. as many as `OCC(B)`
(10_state.md R33, 40_ringbuffer.md R99). An entry is `none` where the slot is unwritten; empty while a counter is unwritten. -/
def State.queue (s : State) (b : Buf) : List (Option Byte) :=
  match s.occ b, (s.ring b).readIndex with
  | some n, some r => (List.range n).map fun j => s.memRead b (slotOf s.cfg b (r + j))
  | _, _ => []

/-- What FG's next micro-step pushes on `tx`: ENQ's E4 makes its byte visible (20_memory.md R55). -/
def FgPos.pushesTx : FgPos → List (Option Byte)
  | .enq (.e4 b) => [some b]
  | _ => []

/-- What FG's next micro-step pops from `rx`: DEQ's Q4 gives its byte's slot back (20_memory.md R56). -/
def FgPos.popsRx : FgPos → List (Option Byte)
  | .deq (.q4 v) => [some v]
  | _ => []

/-- What the callback's next micro-step pushes on `rx`: RXBYTE's B4. -/
def IrqPos.pushesRx : IrqPos → List (Option Byte)
  | .rxbyte (.b4 b) => [some b]
  | _ => []

/-- What the callback's next micro-step pops from `tx`: TXRDY's T6, of the byte T5 has sent. -/
def IrqPos.popsTx : IrqPos → List (Option Byte)
  | .txrdy (.t6 v) => [some v]
  | _ => []

/-- What the callback's next micro-step sends: TXRDY's T5. -/
def IrqPos.sends : IrqPos → List Byte
  | .txrdy (.t5 v) => [v]
  | _ => []

/-! ### How far an operation is from its end -/

/-- The micro-steps a foreground operation has left at most, the next one counted (41_foreground.md R117). -/
def FgPos.stepsLeft : FgPos → Nat
  | .init .i1 => 7 | .init .i2 => 6 | .init .i3 => 5 | .init .i4 => 4 | .init .i5 => 3 | .init .i6 => 2 | .init .i7 => 1
  | .bind (.h1 _) => 2 | .bind .h2 => 1
  | .enq (.e1 _) => 8 | .enq (.e2 _ _) => 7 | .enq (.e3 _) => 6 | .enq (.e4 _) => 5
  | .enq .e5 => 4 | .enq (.e6 _) => 3 | .enq (.e7 _) => 2 | .enq .e8 => 1
  | .deq .q1 => 5 | .deq (.q2 _) => 4 | .deq .q3 => 3 | .deq (.q4 _) => 2 | .deq (.q5 _) => 1
  | .rxcnt .n1 => 2 | .rxcnt (.n2 _) => 1

/-- The micro-steps a callback has left at most, the next one counted (42_interrupt.md R137). -/
def IrqPos.stepsLeft : IrqPos → Nat
  | .txrdy .t1 => 8 | .txrdy .t2 => 7 | .txrdy (.t3 _) => 6 | .txrdy .t4 => 5 | .txrdy (.t5 _) => 4
  | .txrdy (.t6 _) => 3 | .txrdy .t7 => 2 | .txrdy (.t8 _) => 1 | .txrdy .t9 => 1
  | .rxbyte (.b1 _) => 4 | .rxbyte (.b2 _ _) => 3 | .rxbyte (.b3 _) => 2 | .rxbyte (.b4 _) => 1

/-! ### The invariant -/

/-- Canonical storage with slots of the buffer only (20_memory.md R50, R51). -/
def storageOk (s : State) (b : Buf) : Prop :=
  (s.ring b).storage.wf ∧ ∀ x ∈ (s.ring b).storage, x.1 < s.cfg.cap b

/-- Counters of `W` bits, occupancy within the capacity (10_state.md R22, R23), every queued slot written (R33). -/
def countersOk (s : State) (b : Buf) (w r : Nat) : Prop :=
  w < 2 ^ s.cfg.idxW ∧ r < 2 ^ s.cfg.idxW ∧ counterSub s.cfg w r ≤ s.cfg.cap b ∧
    ∀ j < counterSub s.cfg w r, (s.memRead b (slotOf s.cfg b (r + j))).isSome

/-- What a producer between P1 and P4 has established (40_ringbuffer.md R101): its copy of the consumer's index only
over-estimates the occupancy (70_reset_and_hazards.md R192), and past P2 there is room. -/
def producerOk (s : State) (b : Buf) (w r rCopy : Nat) : Prop :=
  rCopy < 2 ^ s.cfg.idxW ∧ counterSub s.cfg w r ≤ counterSub s.cfg w rCopy ∧ counterSub s.cfg w rCopy ≤ s.cfg.cap b

/-- What a consumer between O1 and O2 has established: its copy of the producer's index only under-estimates the occupancy
(70_reset_and_hazards.md R192). -/
def consumerOk (s : State) (w r wCopy : Nat) : Prop :=
  wCopy < 2 ^ s.cfg.idxW ∧ counterSub s.cfg wCopy r ≤ counterSub s.cfg w r

/-- What FG's operation in flight has established, with the counters' values. -/
def fgOk (s : State) (wt rt wr rr : Nat) : Prop :=
  match s.fg with
  | some (.enq (.e2 _ r)) => producerOk s .tx wt rt r
  | some (.enq (.e3 _)) => counterSub s.cfg wt rt < s.cfg.cap .tx
  | some (.enq (.e4 b)) => counterSub s.cfg wt rt < s.cfg.cap .tx ∧ s.memRead .tx (slotOf s.cfg .tx wt) = some b
  | some (.deq (.q2 w)) => consumerOk s wr rr w
  | some (.deq .q3) => 0 < counterSub s.cfg wr rr
  | some (.deq (.q4 v)) => 0 < counterSub s.cfg wr rr ∧ s.memRead .rx (slotOf s.cfg .rx rr) = some v
  | some (.rxcnt (.n2 w)) => consumerOk s wr rr w
  | _ => True

/-- What the callback in flight has established, with the counters' values; nothing of a callback an INIT has overlapped,
which can only fault. -/
def irqOk (s : State) (wt rt wr rr : Nat) : Prop :=
  match s.irq with
  | some ⟨.txrdy (.t3 w), false⟩ => consumerOk s wt rt w
  | some ⟨.txrdy .t4, false⟩ => 0 < counterSub s.cfg wt rt
  | some ⟨.txrdy (.t5 v), false⟩ => 0 < counterSub s.cfg wt rt ∧ s.memRead .tx (slotOf s.cfg .tx rt) = some v
  | some ⟨.txrdy (.t6 v), false⟩ => 0 < counterSub s.cfg wt rt ∧ s.memRead .tx (slotOf s.cfg .tx rt) = some v
  | some ⟨.txrdy (.t8 w), false⟩ => consumerOk s wt rt w
  | some ⟨.rxbyte (.b2 _ r), false⟩ => producerOk s .rx wr rr r
  | some ⟨.rxbyte (.b3 _), false⟩ => counterSub s.cfg wr rr < s.cfg.cap .rx
  | some ⟨.rxbyte (.b4 b), false⟩ => counterSub s.cfg wr rr < s.cfg.cap .rx ∧ s.memRead .rx (slotOf s.cfg .rx wr) = some b
  | _ => True

/-- After an INIT: all five elements are written, and everything above holds. -/
def settled (s : State) : Prop :=
  match s.tx.writeIndex, s.tx.readIndex, s.rx.writeIndex, s.rx.readIndex, s.txArmed with
  | some wt, some rt, some wr, some rr, some _ =>
    countersOk s .tx wt rt ∧ countersOk s .rx wr rr ∧ fgOk s wt rt wr rr ∧ irqOk s wt rt wr rr
  | _, _, _, _, _ => False

/-- Before the first INIT (10_state.md R31, R33): counters and flag unwritten, and no operation past its first read. -/
def fresh (s : State) : Prop :=
  s.tx.writeIndex = none ∧ s.tx.readIndex = none ∧ s.rx.writeIndex = none ∧ s.rx.readIndex = none ∧ s.txArmed = none ∧
    (match s.fg with
      | none | some (.init .i1) | some (.bind _) | some (.enq (.e1 _)) | some (.deq .q1) | some (.rxcnt .n1) => True
      | _ => False) ∧
    (match s.irq with
      | none | some ⟨.txrdy .t1, _⟩ | some ⟨.txrdy .t2, _⟩ | some ⟨.rxbyte (.b1 _), _⟩ => True
      | _ => False)

/-- Inside an INIT (41_foreground.md R110): what its micro-steps so far have written, and any callback in flight is marked. -/
def initialising (s : State) : Prop :=
  (match s.irq with
    | none => True
    | some c => c.raced = true) ∧
  (match s.fg with
    | some (.init .i2) => s.tx.writeIndex = some 0
    | some (.init .i3) => s.tx.writeIndex = some 0 ∧ s.tx.readIndex = some 0
    | some (.init .i4) => s.tx.writeIndex = some 0 ∧ s.tx.readIndex = some 0 ∧ s.rx.writeIndex = some 0
    | some (.init .i5) =>
      s.tx.writeIndex = some 0 ∧ s.tx.readIndex = some 0 ∧ s.rx.writeIndex = some 0 ∧ s.rx.readIndex = some 0
    | some (.init .i6) =>
      s.tx.writeIndex = some 0 ∧ s.tx.readIndex = some 0 ∧ s.rx.writeIndex = some 0 ∧ s.rx.readIndex = some 0 ∧
        s.txArmed = some false
    | _ => False)

/-- The invariant of the machine: it holds at reset and every step keeps it. -/
def State.Inv (s : State) : Prop :=
  storageOk s .tx ∧ storageOk s .rx ∧
    (if s.inInit then initialising s else fresh s ∨ settled s)

/-! ### The collaborator's enable bits as a function of the event history (10_state.md R28) -/

/-- The argument of the last `SET_TX_EN` event, false where there is none. -/
def lastTxEn (h : List HookEvent) : Bool :=
  h.foldl (fun b e => match e with | .setTxEn c => c | _ => b) false

/-- The argument of the last `SET_RX_EN` event, false where there is none. -/
def lastRxEn (h : List HookEvent) : Bool :=
  h.foldl (fun b e => match e with | .setRxEn c => c | _ => b) false

/-- `tx_en` and `rx_en` are the arguments of the last enable events (10_state.md R28). -/
def State.enablesFollow (s : State) : Prop := s.txEn = lastTxEn s.hookOut ∧ s.rxEn = lastRxEn s.hookOut

/-! ### The end of a run (70_reset_and_hazards.md R193) -/

/-- A triple no final run ends in: DRAINED `(false, true, 0)`, or the lost arm, `tx_armed` true with the hardware disabled, at any `n`: the run of
95_test_vectors.md P5 ends in `(true, false, 4)` and is "not a final run" (log 28). -/
def Triple.unfinished (x : Triple) : Bool := (!x.armed && x.enabled && x.queued == 0) || (x.armed && !x.enabled)

/-- Nothing in flight, so that no ENQ is held, both command sequences exhausted, and the transmit machine neither DRAINED nor at a lost arm; a state
that a run has reached has met no fault and no refusal. -/
def State.final (s : State) : Bool :=
  s.fg.isNone && s.irq.isNone && s.fgIn.isEmpty && s.irqIn.isEmpty && !s.triple.any Triple.unfinished

/-- "Everything queued was transmitted" also needs IDLE. -/
def State.allSent (s : State) : Bool := s.final && s.triple == some ⟨false, false, 0⟩

/-- "Everything received was delivered" also needs an empty receive buffer. -/
def State.allDelivered (s : State) : Bool := s.final && s.occ .rx == some 0

/-! ### The collaborator's premises (60_exceptions.md R163)

`ENV_NO_NEST` is built into the step (R159). `ENV_ORDER` speaks of the line only and is out of the model (log 21). -/

/-- The callback the next step would accept on the IRQ port. -/
def State.delivers (s : State) : Option Instr :=
  if s.mover s.turnOf = .irq ∧ s.irq.isNone then
    match s.irqIn with
    | [] => none
    | w :: _ =>
      match decodeOn .irq w with
      | .ok i => some i
      | .error _ => none
  else none

/-- `ENV_GATED`: no TXRDY is delivered while `tx_en` is false and no RXBYTE while `rx_en` is false. -/
def State.envGated (s : State) : Prop :=
  match s.delivers with
  | some .txrdy => s.txEn = true
  | some (.rxbyte _) => s.rxEn = true
  | _ => True

/-- An INIT is in flight. -/
def State.initInFlight (s : State) : Bool :=
  match s.fg with
  | some (.init _) => true
  | _ => false

/-- `ENV_CONTROLLED_INIT`: no callback is delivered while an INIT is in flight. -/
def State.envControlledInit (s : State) : Prop := s.initInFlight = true → s.delivers = none

/-- An infinite run of the machine. -/
def IsRun (run : Nat → State) : Prop := ∀ n, step (run n) = .next (run (n + 1))

/-- From step `n` on a TXRDY is delivered, or `tx_en` is false at some step before that. -/
def txrdyFollows (run : Nat → State) (n : Nat) : Prop :=
  ∃ m, n ≤ m ∧ ((run m).delivers = some .txrdy ∨ (run m).txEn = false)

/-- `ENV_TX_PROGRESS`: after `SEND_BYTE`, while `tx_en` stays true, a TXRDY is eventually delivered. -/
def envTxProgress (run : Nat → State) : Prop :=
  ∀ n v, (run (n + 1)).hookOut = (run n).hookOut ++ [.sendByte v] → txrdyFollows run (n + 1)

/-- `ENV_KICK`: after `SET_TX_EN(1)` changes `tx_en` from false to true, a TXRDY is eventually delivered. -/
def envKick (run : Nat → State) : Prop :=
  ∀ n, (run n).txEn = false → (run (n + 1)).txEn = true → ∃ m, n + 1 ≤ m ∧ (run m).delivers = some .txrdy

/-! ### Runs at operation grain (42_interrupt.md R133) -/

/-- Operations issued one after the other, each whole. -/
def execAll : List Instr → State → Result
  | [], s => .next s
  | i :: is, s => andThen (exec i s) (execAll is)

/-- The result with a function applied to the state it answers. -/
def mapNext (f : State → State) : Result → Result
  | .next s => .next (f s)
  | .fault e => .fault e
  | .refused e => .refused e

end Sys2Proof.Machine
end

