-- ==== Sys2Proof/Certificates/Slice0/Obligations.lean ====
section
/-! DEFINITION. The statements for the provers. Each says what the block does by a rule of spec/, named in its docstring;
"(log n)" marks a clause that rests on a choice of the model. Nothing here is about a program. `s.inBounds = true` in a hypothesis keeps out
the states that 10_state.md R23 gives no meaning (an occupancy above the capacity, outside an INIT): OccupancyBounded says what happens in them,
and InvKept that no run reaches one. -/

open Sys2Proof Sys2Proof.Machine

/-! ## Encoding -/

/-- 30_encoding.md R72, R73, R77(c): the word of every operation, every operand value included, decodes on the operation's own
port to that operation. -/
def Obligations.DecodeOfEncode : Prop :=
  ∀ i : Instr, decodeOn i.port (encode i) = .ok i

/-- 30_encoding.md R71, R78: a word that spells an operation is that operation's word, so no bit of a legal word is ignored. -/
def Obligations.EncodeOfDecode : Prop :=
  ∀ (w : Word) (i : Instr), decode w = .ok i → encode i = w

/-- 30_encoding.md R72: a word spells an operation of a row exactly when it selects the row, `c & mask == match`. -/
def Obligations.RowsSelectOperations : Prop :=
  ∀ (w : Word) (row : OpRow), row ∈ opTable → (row.selects w = true ↔ ∃ i, decode w = .ok i ∧ i.row = row)

/-- 30_encoding.md R77: a word is illegal on a port exactly when (a) its opcode is reserved, (b) a field that must be zero is not,
or (c) its `op[3]` belongs to the other port. -/
def Obligations.IllegalWords : Prop :=
  ∀ (p : Port) (w : Word),
    (∃ e, decodeOn p w = .error e) ↔
      ((opField w).toNat ∈ [0x0, 0x6, 0x7, 0xA, 0xB, 0xC, 0xD, 0xE, 0xF] ∨
        ((opField w).toNat ∈ [0x1, 0x4, 0x5, 0x8] ∧ (argField w ≠ 0#4 ∨ dataField w ≠ 0#8)) ∨
        ((opField w).toNat = 0x2 ∧ ((argField w).getLsbD 3 = true ∨ dataField w ≠ 0#8)) ∨
        ((opField w).toNat ∈ [0x3, 0x9] ∧ argField w ≠ 0#4) ∨
        (w.getLsbD 15 = true ∧ p = .fg) ∨ (w.getLsbD 15 = false ∧ p = .irq))

/-- 95_test_vectors.md section 2.3, from 30_encoding.md R72 and R77: words written out bit by bit. -/
def Obligations.SampleWords : Prop :=
  decodeOn .fg 0b0001000000000000#16 = .ok .init ∧
  decodeOn .fg 0b0010010100000000#16 = .ok (.bind 0b101#3) ∧
  decodeOn .fg 0b0011000001000001#16 = .ok (.enq 0x41#8) ∧
  decodeOn .fg 0b0100000000000000#16 = .ok .deq ∧
  decodeOn .fg 0b0101000000000000#16 = .ok .rxcnt ∧
  decodeOn .irq 0b1000000000000000#16 = .ok .txrdy ∧
  decodeOn .irq 0b1001000010100101#16 = .ok (.rxbyte 0xA5#8) ∧
  decodeOn .fg 0b0010100000000000#16 = .error .argNotZero ∧
  decodeOn .irq 0b0011000001000001#16 = .error .wrongPort

/-! ## Counter arithmetic -/

/-- 40_ringbuffer.md R90, R91: the difference of two counters is below `2^W` and borrows the modulus when the write counter is the
smaller; the increment passes from `2^W - 1` to 0. -/
def Obligations.CounterArithmetic : Prop :=
  ∀ (c : Config) (a b : Nat), a < 2 ^ c.idxW → b < 2 ^ c.idxW →
    counterSub c a b < 2 ^ c.idxW ∧
    (b ≤ a → counterSub c a b = a - b) ∧
    (a < b → counterSub c a b = a + 2 ^ c.idxW - b) ∧
    counterInc c (2 ^ c.idxW - 1) = 0 ∧
    (a + 1 < 2 ^ c.idxW → counterInc c a = a + 1)

/-- 40_ringbuffer.md R92: masking keeps the low `k` bits (`CAP = 2^k`), equals the remainder modulo the capacity, and the slot after an
increment is the next one modulo the capacity, through the counter's overflow. -/
def Obligations.SlotMasking : Prop :=
  ∀ (c : Config) (b : Buf) (i : Nat),
    (∃ k, c.cap b = 2 ^ k ∧ ∀ n, (slotOf c b i).testBit n = (decide (n < k) && i.testBit n)) ∧
    slotOf c b i = i % c.cap b ∧
    slotOf c b (counterInc c i) = (slotOf c b i + 1) % c.cap b

/-- 40_ringbuffer.md R98: with `p` pushes and `q` pops since INIT, `0 <= p - q <= C`, the occupancy computed from the two totals modulo
`2^W` is `p - q`, however large the totals. -/
def Obligations.OccupancyExact : Prop :=
  ∀ (c : Config) (b : Buf) (p q : Nat), q ≤ p → p ≤ q + c.cap b →
    counterSub c (p % 2 ^ c.idxW) (q % 2 ^ c.idxW) = p - q

/-! ## Construction -/

/-- 00_scope.md R5: parameters are accepted exactly when (a) each capacity is a power of two and (b) `2^IDX_W` exceeds both, that is
`IDX_W >= k + 1`; the instance then has just these parameters, and (c) every other configuration is refused, `BAD_CONFIG`. -/
def Obligations.ConstructionAcceptsLegal : Prop :=
  ∀ p : Params,
    ((∃ k, p.capTx = 2 ^ k) ∧ (∃ k, p.capRx = 2 ^ k) ∧ p.capTx < 2 ^ p.idxW ∧ p.capRx < 2 ^ p.idxW →
      ∃ c : Config, State.construct p = .next (State.constructed c) ∧ c.cap .tx = p.capTx ∧ c.cap .rx = p.capRx ∧
        c.idxW = p.idxW ∧ c.policy = p.policy ∧ c.sched = p.sched) ∧
    (¬((∃ k, p.capTx = 2 ^ k) ∧ (∃ k, p.capRx = 2 ^ k) ∧ p.capTx < 2 ^ p.idxW ∧ p.capRx < 2 ^ p.idxW) →
      State.construct p = .refused .badConfig) ∧
    (∀ k, p.capTx = 2 ^ k → (p.capTx < 2 ^ p.idxW ↔ k + 1 ≤ p.idxW)) ∧
    ∀ k, p.capRx = 2 ^ k → (p.capRx < 2 ^ p.idxW ↔ k + 1 ≤ p.idxW)

/-- 10_state.md R31 (column "after construction"), 70_reset_and_hazards.md R180: after construction all hooks are unbound, every counter,
`tx_armed` and every slot is unwritten, nothing is in flight, no event was emitted and both enables are false. -/
def Obligations.ConstructedState : Prop :=
  ∀ c : Config, ∀ s, s = State.constructed c →
    s.cfg = c ∧ s.hooks = 0#3 ∧ s.txArmed = none ∧ s.fg = none ∧ s.irq = none ∧ s.hookOut = [] ∧ s.txEn = false ∧
    s.rxEn = false ∧
    ∀ b, (s.ring b).writeIndex = none ∧ (s.ring b).readIndex = none ∧ ∀ a, s.memRead b a = none

/-! ## The step -/

/-- 00_scope.md R7, R8; 30_encoding.md R70: when the agent that moves has nothing in flight and the next word of its port spells an
operation, the step is that operation: all of it on a turn for the whole operation, its first micro-step on a turn for one micro-step.
The step takes the turn off the schedule and the word off the port. That the word is taken in the same step as the operation's first micro-step is the
model's choice (log 7): R70 gives accepting no micro-step of its own. -/
def Obligations.StepRunsDecoded : Prop :=
  ∀ (s : State) (p : Port) (w : Word) (ws : List Word) (i : Instr),
    s.mover s.turnOf = p → s.inFlight p = false → s.words p = w :: ws → decodeOn p w = .ok i →
    (s.turnOf.grain = .whole → step s = exec i (s.dropTurn.setWords p ws)) ∧
    (s.turnOf.grain = .micro → step s = microStep p (startAt i (s.dropTurn.setWords p ws)))

/-- 00_scope.md R7; 10_state.md R26: when the agent that moves has an operation in flight, the step goes on with it, by one micro-step or to
its end, and looks at no command word. With nothing in flight and no word on its port the turn changes only the schedule (the model's choice, log 16). -/
def Obligations.StepGoesOn : Prop :=
  ∀ (s : State) (p : Port), s.mover s.turnOf = p →
    (s.inFlight p = true → s.turnOf.grain = .micro → step s = microStep p s.dropTurn) ∧
    (s.inFlight p = true → s.turnOf.grain = .whole → step s = runMicro p maxMicro s.dropTurn) ∧
    (s.inFlight p = false → s.words p = [] → s.inBounds = true → step s = .next s.dropTurn)

/-- 00_scope.md R7: under `SCHED = preempt`, while a callback is in flight no step is FG's: the foreground operation stays where it is, and
no response is given. -/
def Obligations.PreemptKeepsForeground : Prop :=
  ∀ s t : State, s.cfg.sched = .preempt → s.irq.isSome = true → step s = .next t →
    t.fg = s.fg ∧ t.fgIn = s.fgIn ∧ t.irqIn = s.irqIn ∧ t.rspOut = s.rspOut

/-- 30_encoding.md R77: an illegal word on the FG port is answered `ILLEGAL` with value 0 and changes nothing else; on the IRQ port it is
refusal X1 (60_exceptions.md R153). -/
def Obligations.IllegalWordOutcome : Prop :=
  ∀ (s : State) (w : Word) (ws : List Word) (e : DecodeError), s.inBounds = true →
    (s.mover s.turnOf = .fg → s.fg = none → s.fgIn = w :: ws → decodeOn .fg w = .error e →
      step s = .next { s.dropTurn with fgIn := ws, rspOut := s.rspOut ++ [⟨.illegal, 0⟩] }) ∧
    (s.mover s.turnOf = .irq → s.irq = none → s.irqIn = w :: ws → decodeOn .irq w = .error e →
      step s = .refused .illegalWord)

/-- The two grains agree (log 6; 42_interrupt.md R133, 00_scope.md R7): an operation run whole is its micro-steps taken one turn at a time,
at most eight of them, whenever the schedule gives that agent those turns. -/
def Obligations.WholeIsMicroSteps : Prop :=
  ∀ (s t : State) (p : Port) (w : Word) (ws : List Word) (i : Instr) (ts : List Turn),
    s.inFlight p = false → s.words p = w :: ws → decodeOn p w = .ok i →
    (p = .fg → s.irq = none ∨ s.cfg.sched = .interleave) →
    exec i ({ s with turns := ts }.setWords p ws) = .next t →
    ∃ n, 1 ≤ n ∧ n ≤ maxMicro ∧
      Host.Core.run Sys2Proof.core n { s with turns := List.replicate n ⟨p, .micro⟩ ++ ts } = .next t

/-! ## The foreground operations -/

/-- 41_foreground.md R110, 10_state.md R31: INIT, in every state with a meaning and no foreground operation in flight, zeroes the four counters, clears
`tx_armed`, emits `SET_RX_EN(1)` if that hook is bound and answers OK; everything else, the slots and HOOKS among it, is as before. A callback in
flight is marked as overlapped (log 8). -/
def Obligations.InitEffect : Prop :=
  ∀ s : State, s.inBounds = true → s.fg = none →
    exec .init s = .next
      { s with
        tx := { s.tx with writeIndex := some 0, readIndex := some 0 }
        rx := { s.rx with writeIndex := some 0, readIndex := some 0 }
        txArmed := some false
        irq := s.irq.map fun c => { c with raced := true }
        rxEn := if s.hooks.getLsbD 1 then true else s.rxEn
        hookOut := if s.hooks.getLsbD 1 then s.hookOut ++ [.setRxEn true] else s.hookOut
        rspOut := s.rspOut ++ [⟨.ok, 0⟩] }

/-- 41_foreground.md R111: BIND writes the three hook-bound bits and answers OK, at any time; nothing else changes and no event is emitted. -/
def Obligations.BindEffect : Prop :=
  ∀ (s : State) (m : BitVec 3), s.inBounds = true → s.fg = none →
    exec (.bind m) s = .next { s with hooks := m, rspOut := s.rspOut ++ [⟨.ok, 0⟩] }

/-- 41_foreground.md R112, R113: ENQ with room stores the byte in the write slot, advances `tx.write_index`, leaves `tx_armed` true, emits
`SET_TX_EN(1)` just when it found `tx_armed` false and the hook is bound, and answers OK; everything else is as before. -/
def Obligations.EnqQueues : Prop :=
  ∀ (s : State) (b : Byte) (w r : Nat) (a : Bool), s.inBounds = true → s.fg = none →
    s.tx.writeIndex = some w → s.tx.readIndex = some r → s.txArmed = some a →
    counterSub s.cfg w r ≠ s.cfg.cap .tx →
    exec (.enq b) s = .next
      { s with
        tx := { s.tx with
          storage := s.tx.storage.write (slotOf s.cfg .tx w) b
          writeIndex := some (counterInc s.cfg w) }
        txArmed := some true
        txEn := if a = false ∧ s.hooks.getLsbD 2 = true then true else s.txEn
        hookOut := if a = false ∧ s.hooks.getLsbD 2 = true then s.hookOut ++ [.setTxEn true] else s.hookOut
        rspOut := s.rspOut ++ [⟨.ok, 0⟩] }

/-- 60_exceptions.md R150, 41_foreground.md R112, R114: ENQ on a full buffer answers BUFFER_FULL and changes nothing under the non-blocking
policy; under the blocking one it gives no response and is held at E1. -/
def Obligations.EnqFull : Prop :=
  ∀ (s : State) (b : Byte) (w r : Nat), s.inBounds = true → s.fg = none →
    s.tx.writeIndex = some w → s.tx.readIndex = some r → counterSub s.cfg w r = s.cfg.cap .tx →
    (s.cfg.policy = .nonblocking →
      exec (.enq b) s = .next { s with rspOut := s.rspOut ++ [⟨.bufferFull, 0⟩] }) ∧
    (s.cfg.policy = .blocking → exec (.enq b) s = .next { s with fg := some (.enq (.e1 b)) })

/-- 41_foreground.md R114: a held ENQ's E1 and E2 lead back to the very same state while the buffer is full, so it stays held with no timeout; once it is not full, ENQ
goes on as if issued then, re-reading `tx.read_index`. -/
def Obligations.EnqHold : Prop :=
  ∀ (s : State) (b : Byte) (w r : Nat), s.inBounds = true → s.fg = some (.enq (.e1 b)) → s.cfg.policy = .blocking →
    s.tx.writeIndex = some w → s.tx.readIndex = some r →
    (counterSub s.cfg w r = s.cfg.cap .tx →
      andThen (microStep .fg s) (microStep .fg) = .next s) ∧
    (counterSub s.cfg w r ≠ s.cfg.cap .tx →
      runMicro .fg maxMicro s = exec (.enq b) { s with fg := none })

/-- 41_foreground.md R115, 60_exceptions.md R150: DEQ with a byte pending answers OK with the byte of the read slot and advances `rx.read_index`;
nothing else changes, the slot included. On an empty buffer it answers BUFFER_EMPTY and changes nothing. -/
def Obligations.DeqEffect : Prop :=
  ∀ (s : State) (w r : Nat), s.inBounds = true → s.fg = none → s.rx.writeIndex = some w → s.rx.readIndex = some r →
    (∀ v, counterSub s.cfg w r ≠ 0 → s.memRead .rx (slotOf s.cfg .rx r) = some v →
      exec .deq s = .next
        { s with
          rx := { s.rx with readIndex := some (counterInc s.cfg r) }
          rspOut := s.rspOut ++ [⟨.ok, v.toNat⟩] }) ∧
    (counterSub s.cfg w r = 0 → exec .deq s = .next { s with rspOut := s.rspOut ++ [⟨.bufferEmpty, 0⟩] })

/-- 41_foreground.md R116: RXCNT answers OK with `rx.write_index -_W rx.read_index` and changes nothing. -/
def Obligations.RxcntReturns : Prop :=
  ∀ (s : State) (w r : Nat), s.inBounds = true → s.fg = none →
    s.rx.writeIndex = some w → s.rx.readIndex = some r →
    exec .rxcnt s = .next { s with rspOut := s.rspOut ++ [⟨.ok, counterSub s.cfg w r⟩] }

/-! ## The callbacks -/

/-- 42_interrupt.md R130: TXRDY on a non-empty buffer sends the byte of the read slot, advances `tx.read_index` once, and clears `tx_armed` just
when the buffer is empty after that; nothing else changes. It runs whatever foreground operation it has preempted, an INIT excepted. -/
def Obligations.TxrdySends : Prop :=
  ∀ (s : State) (w r : Nat) (v : Byte), s.inBounds = true → s.irq = none → s.inInit = false → s.hooks.getLsbD 0 = true →
    s.tx.writeIndex = some w → s.tx.readIndex = some r → counterSub s.cfg w r ≠ 0 →
    s.memRead .tx (slotOf s.cfg .tx r) = some v →
    exec .txrdy s = .next
      { s with
        tx := { s.tx with readIndex := some (counterInc s.cfg r) }
        hookOut := s.hookOut ++ [.sendByte v]
        txArmed := if counterSub s.cfg w (counterInc s.cfg r) = 0 then some false else s.txArmed }

/-- 42_interrupt.md R130, R135; 60_exceptions.md R151: TXRDY on an empty buffer emits `SET_TX_EN(0)` if the hook is bound and does nothing at
all if it is not; `tx_armed` is left as it is. -/
def Obligations.TxrdyDisables : Prop :=
  ∀ (s : State) (w r : Nat), s.inBounds = true → s.irq = none → s.inInit = false → s.hooks.getLsbD 0 = true →
    s.tx.writeIndex = some w → s.tx.readIndex = some r → counterSub s.cfg w r = 0 →
    exec .txrdy s = .next
      { s with
        txEn := if s.hooks.getLsbD 2 then false else s.txEn
        hookOut := if s.hooks.getLsbD 2 then s.hookOut ++ [.setTxEn false] else s.hookOut }

/-- 42_interrupt.md R131, R136: RXBYTE with room stores the byte in the write slot and advances `rx.write_index`; nothing else changes. On a full
buffer it changes nothing at all. -/
def Obligations.RxbyteEffect : Prop :=
  ∀ (s : State) (b : Byte) (w r : Nat), s.inBounds = true → s.irq = none → s.inInit = false →
    s.rx.writeIndex = some w → s.rx.readIndex = some r →
    (counterSub s.cfg w r ≠ s.cfg.cap .rx →
      exec (.rxbyte b) s = .next
        { s with
          rx := { s.rx with
            storage := s.rx.storage.write (slotOf s.cfg .rx w) b
            writeIndex := some (counterInc s.cfg w) } }) ∧
    (counterSub s.cfg w r = s.cfg.cap .rx → exec (.rxbyte b) s = .next s)

/-! ## Faults -/

/-- 70_reset_and_hazards.md R183, 60_exceptions.md R152, R153: with the counters unwritten ENQ, DEQ, RXCNT and RXBYTE fault UNINIT; TXRDY faults
UNBOUND_SEND if `send_byte` is unbound, and else UNINIT; BIND and INIT run. -/
def Obligations.BeforeInit : Prop :=
  ∀ s : State, s.fg = none → s.irq = none →
    s.tx.writeIndex = none → s.tx.readIndex = none → s.rx.writeIndex = none → s.rx.readIndex = none →
    (∀ b, exec (.enq b) s = .fault .uninit) ∧ exec .deq s = .fault .uninit ∧ exec .rxcnt s = .fault .uninit ∧
    (∀ b, exec (.rxbyte b) s = .fault .uninit) ∧
    exec .txrdy s = (if s.hooks.getLsbD 0 then .fault .uninit else .fault .unboundSend) ∧
    (∃ t, exec .init s = .next t) ∧ ∀ m, ∃ t, exec (.bind m) s = .next t

/-- 60_exceptions.md R152: TXRDY with `send_byte` unbound is `Fault(UNBOUND_SEND)`, whatever the counters hold within their bounds, outside an INIT. -/
def Obligations.UnboundSendFaults : Prop :=
  ∀ s : State, s.inBounds = true → s.irq = none → s.inInit = false → s.hooks.getLsbD 0 = false → exec .txrdy s = .fault .unboundSend

/-- 60_exceptions.md R153 F3, 41_foreground.md R110: any IRQ micro-step while an INIT is between I1 and I6 is `Fault(INIT_RACE)`, the first one of
a callback issued there among them. So is any of a callback that an INIT has overlapped (00_scope.md R7; log 8), and the race comes before any
other fault of the micro-step (log 9). -/
def Obligations.InitRaceFaults : Prop :=
  ∀ s : State,
    (s.inInit = true → s.irq = none → exec .txrdy s = .fault .initRace ∧ ∀ b, exec (.rxbyte b) s = .fault .initRace) ∧
    (s.inInit = true → s.irq.isSome = true → microStep .irq s = .fault .initRace) ∧
    ∀ c, s.inBounds = true → s.irq = some c → c.raced = true → microStep .irq s = .fault .initRace

/-- 60_exceptions.md R159, 30_encoding.md R70: an operation issued where its context has one in flight is refused (U13; log 15), and a step
never does so: its answer is never that refusal. -/
def Obligations.NoNesting : Prop :=
  (∀ (s : State) (i : Instr), s.inFlight i.port = true → exec i s = .refused .contextBusy) ∧
  ∀ s : State, step s ≠ .refused .contextBusy

/-! ## Frames -/

/-- 10_state.md R20 (column "written by"), R24, R25, R30, R32: which operations may change which register, in every case that answers a next state. -/
def Obligations.FrameRegisters : Prop :=
  ∀ (i : Instr) (s t : State), exec i s = .next t →
    t.cfg = s.cfg ∧ t.fgIn = s.fgIn ∧ t.irqIn = s.irqIn ∧ t.turns = s.turns ∧ t.tick = s.tick ∧
    ((∀ m, i ≠ .bind m) → t.hooks = s.hooks) ∧
    (i ≠ .init → (∀ b, i ≠ .enq b) → t.tx.writeIndex = s.tx.writeIndex) ∧
    (i ≠ .init → i ≠ .txrdy → t.tx.readIndex = s.tx.readIndex) ∧
    (i ≠ .init → (∀ b, i ≠ .rxbyte b) → t.rx.writeIndex = s.rx.writeIndex) ∧
    (i ≠ .init → i ≠ .deq → t.rx.readIndex = s.rx.readIndex) ∧
    (i ≠ .init → (∀ b, i ≠ .enq b) → i ≠ .txrdy → t.txArmed = s.txArmed) ∧
    (i ≠ .init → (∀ b, i ≠ .enq b) → i ≠ .txrdy → t.hookOut = s.hookOut) ∧
    ((∀ b, i ≠ .enq b) → i ≠ .txrdy → t.txEn = s.txEn) ∧
    (i ≠ .init → t.rxEn = s.rxEn) ∧
    (i.port = .irq → t.rspOut = s.rspOut) ∧
    ((∀ b, i ≠ .enq b) → t.fg = s.fg) ∧
    (i ≠ .init → t.irq = s.irq)

/-- 20_memory.md R50, R51; 40_ringbuffer.md R94, R96: INIT, BIND, DEQ, RXCNT and TXRDY leave every slot of both buffers as it was. ENQ stores to no
slot but the one of `tx.write_index`, and to none when the buffer is full; RXBYTE likewise with `rx`. -/
def Obligations.FrameSlots : Prop :=
  ∀ (i : Instr) (s t : State), exec i s = .next t →
    ((∀ b, i ≠ .enq b) → ∀ a, t.memRead .tx a = s.memRead .tx a) ∧
    ((∀ b, i ≠ .rxbyte b) → ∀ a, t.memRead .rx a = s.memRead .rx a) ∧
    (∀ w, s.tx.writeIndex = some w → ∀ a, a ≠ slotOf s.cfg .tx w → t.memRead .tx a = s.memRead .tx a) ∧
    (∀ w, s.rx.writeIndex = some w → ∀ a, a ≠ slotOf s.cfg .rx w → t.memRead .rx a = s.memRead .rx a) ∧
    (s.full .tx = true → ∀ a, t.memRead .tx a = s.memRead .tx a) ∧
    (s.full .rx = true → ∀ a, t.memRead .rx a = s.memRead .rx a)

/-- 10_state.md R22, 20_memory.md R60: in one micro-step a counter stays, or goes on by one, or is set to 0 by INIT; FG never advances `tx.read_index` or
`rx.write_index`, IRQ never writes `tx.write_index` or `rx.read_index`. -/
def Obligations.CountersOnlyAdvance : Prop :=
  ∀ (p : Port) (s t : State), microStep p s = .next t →
    (∀ b, ((t.ring b).writeIndex = (s.ring b).writeIndex ∨
        (t.ring b).writeIndex = (s.ring b).writeIndex.map (counterInc s.cfg) ∨
        ((t.ring b).writeIndex = some 0 ∧ p = .fg ∧ s.initInFlight = true)) ∧
      ((t.ring b).readIndex = (s.ring b).readIndex ∨
        (t.ring b).readIndex = (s.ring b).readIndex.map (counterInc s.cfg) ∨
        ((t.ring b).readIndex = some 0 ∧ p = .fg ∧ s.initInFlight = true))) ∧
    (p = .fg → s.initInFlight = false → t.tx.readIndex = s.tx.readIndex ∧ t.rx.writeIndex = s.rx.writeIndex) ∧
    (p = .irq → t.tx.writeIndex = s.tx.writeIndex ∧ t.rx.readIndex = s.rx.readIndex)

/-- 10_state.md R24, R25: in one micro-step `tx_armed` changes only to true by ENQ's E6 after E5 read false, or to false by INIT's I5 or TXRDY's T8;
HOOKS changes only by BIND's H1. -/
def Obligations.FlagWriters : Prop :=
  ∀ (p : Port) (s t : State), microStep p s = .next t →
    (t.txArmed ≠ s.txArmed →
      (p = .fg ∧ s.fg = some (.enq (.e6 false)) ∧ t.txArmed = some true) ∨
      (p = .fg ∧ s.fg = some (.init .i5) ∧ t.txArmed = some false) ∨
      (p = .irq ∧ ∃ w, s.irq.map IrqRun.pos = some (.txrdy (.t8 w)) ∧ t.txArmed = some false)) ∧
    (t.hooks ≠ s.hooks → p = .fg ∧ s.fg = some (.bind (.h1 t.hooks)))

/-- 60_exceptions.md R158: a micro-step of a callback leaves the preempted foreground operation's position and locals, the words on the ports and the
responses as they are; a micro-step of FG leaves the callback in flight where it is, INIT's mark apart (log 8). -/
def Obligations.PreemptedKeepsItsPlace : Prop :=
  ∀ s t : State,
    (microStep .irq s = .next t → t.fg = s.fg ∧ t.fgIn = s.fgIn ∧ t.irqIn = s.irqIn ∧ t.rspOut = s.rspOut) ∧
    (microStep .fg s = .next t → t.irq.map IrqRun.pos = s.irq.map IrqRun.pos ∧ t.fgIn = s.fgIn ∧ t.irqIn = s.irqIn)

/-! ## Invariants -/

/-- 10_state.md R31; 70_reset_and_hazards.md R180: the invariant holds at reset, and so does the enables' relation to the (empty) event history. -/
def Obligations.InvAtReset : Prop := State.reset.Inv ∧ State.reset.enablesFollow

/-- 10_state.md R22, R23, R33; 40_ringbuffer.md R101; 70_reset_and_hazards.md R192: every step, at either grain and under either SCHED, keeps the invariant: storage
canonical and within the capacities; once initialised, counters of `W` bits, `0 <= occ <= CAP`, every queued slot written, every stale copy erring one way.
(Inside an INIT the counters' relation is suspended: 41_foreground.md R110.) -/
def Obligations.InvKept : Prop :=
  ∀ s t : State, s.Inv → step s = .next t → t.Inv

/-- 10_state.md R23, R27: outside an INIT the occupancy is at most the capacity, `full` and `empty` say that it is the capacity and 0, and a full buffer is
not empty. A state handed with an occupancy above the capacity has no meaning: a step, a micro-step and any operation its context could begin are
refused, by the name `brokenOccupancy` (log 27). -/
def Obligations.OccupancyBounded : Prop :=
  (∀ (s : State) (b : Buf) (n : Nat), s.Inv → s.inInit = false → s.occ b = some n →
    n ≤ s.cfg.cap b ∧ (s.full b = true ↔ n = s.cfg.cap b) ∧ (s.empty b = true ↔ n = 0) ∧
    ¬(s.full b = true ∧ s.empty b = true) ∧ (s.queue b).length = n ∧ ∀ x ∈ s.queue b, x.isSome = true) ∧
  ∀ (s : State) (b : Buf) (n : Nat), s.inInit = false → s.occ b = some n → s.cfg.cap b < n →
    step s = .refused .brokenOccupancy ∧ (∀ p, microStep p s = .refused .brokenOccupancy) ∧
    ∀ i : Instr, s.inFlight i.port = false → exec i s = .refused .brokenOccupancy

/-- 70_reset_and_hazards.md R192: at every micro-step that computes it from a copy, what a producer computes (E2, B2) is at least the true occupancy and what a
consumer computes (Q2, N2, T3, and T8, from the copy T7 read) is at most it. -/
def Obligations.StaleReadsErrOneWay : Prop :=
  ∀ s : State, s.Inv → s.inInit = false → s.txArmed ≠ none →
    (∀ b r w n, s.fg = some (.enq (.e2 b r)) → s.tx.writeIndex = some w → s.occ .tx = some n → n ≤ counterSub s.cfg w r) ∧
    (∀ w r n, s.fg = some (.deq (.q2 w)) → s.rx.readIndex = some r → s.occ .rx = some n → counterSub s.cfg w r ≤ n) ∧
    (∀ w r n, s.fg = some (.rxcnt (.n2 w)) → s.rx.readIndex = some r → s.occ .rx = some n → counterSub s.cfg w r ≤ n) ∧
    (∀ w r n, s.irq = some ⟨.txrdy (.t3 w), false⟩ → s.tx.readIndex = some r → s.occ .tx = some n → counterSub s.cfg w r ≤ n) ∧
    (∀ w r n, s.irq = some ⟨.txrdy (.t8 w), false⟩ → s.tx.readIndex = some r → s.occ .tx = some n → counterSub s.cfg w r ≤ n) ∧
    (∀ b r w n, s.irq = some ⟨.rxbyte (.b2 b r), false⟩ → s.rx.writeIndex = some w → s.occ .rx = some n →
      n ≤ counterSub s.cfg w r)

/-- 20_memory.md R50 and the model's form of storage (log 4): every step keeps both storages canonical, from any state. -/
def Obligations.StorageCanonical : Prop :=
  ∀ s t : State, s.tx.storage.wf → s.rx.storage.wf → step s = .next t → t.tx.storage.wf ∧ t.rx.storage.wf

/-- 00_scope.md R4: no step changes a parameter. -/
def Obligations.ParametersFixed : Prop :=
  ∀ s t : State, step s = .next t → t.cfg = s.cfg

/-- 10_state.md R28: `tx_en` and `rx_en` are the arguments of the most recent enable events, and every step keeps that so. -/
def Obligations.EnablesFollowEvents : Prop :=
  ∀ s t : State, s.enablesFollow → step s = .next t → t.enablesFollow

/-- 30_encoding.md R76, R70: a step adds at most one event, and the only words emitted are `0x0vv`, `0x101`, `0x201` and `0x200`; it adds at most one
response. What was emitted or answered before stays. -/
def Obligations.EmittedWords : Prop :=
  ∀ s t : State, step s = .next t →
    ∃ es rs, t.hookOut = s.hookOut ++ es ∧ t.rspOut = s.rspOut ++ rs ∧ es.length ≤ 1 ∧ rs.length ≤ 1 ∧
      ∀ e ∈ es, (∃ v : Byte, e = .sendByte v ∧ e.word.toNat = v.toNat) ∨
        e.word = 0x101#10 ∨ e.word = 0x201#10 ∨ e.word = 0x200#10

/-- 30_encoding.md R74, R75: a response word is the status code over a value of `VW = max(8, IDX_W)` bits, and every response a step gives has a value that fits. -/
def Obligations.ResponseWords : Prop :=
  (∀ (c : Config) (r : Response), r.value < 2 ^ (max 8 c.idxW) →
    (r.word c).toNat = (match r.status with
      | .ok => 0
      | .bufferFull => 1
      | .bufferEmpty => 2
      | .illegal => 3) * 2 ^ (max 8 c.idxW) + r.value) ∧
  ∀ s t : State, (∀ r ∈ s.rspOut, r.value < 2 ^ (max 8 s.cfg.idxW)) → step s = .next t →
    ∀ r ∈ t.rspOut, r.value < 2 ^ (max 8 t.cfg.idxW)

/-! ## First in, first out -/

/-- 40_ringbuffer.md R97, R99; 20_memory.md R55, R56: a micro-step of FG other than INIT's appends the byte of E4 to what `tx` holds and takes the byte of Q4,
the oldest, from what `rx` holds; every other one leaves both as they are. -/
def Obligations.ForegroundQueues : Prop :=
  ∀ (s t : State) (q : FgPos), s.Inv → s.fg = some q → (∀ p, q ≠ .init p) → microStep .fg s = .next t →
    t.queue .tx = s.queue .tx ++ q.pushesTx ∧ s.queue .rx = q.popsRx ++ t.queue .rx

/-- 40_ringbuffer.md R97, R99; 20_memory.md R55, R56: a micro-step of a callback appends the byte of B4 to what `rx` holds and takes the byte of T6, the oldest,
from what `tx` holds; T5 sends just that oldest byte; every other one leaves both buffers as they are and sends nothing. That T5 sends without testing `send_byte` again, which a BIND
may have unbound since T1, is the model's reading of R130 (log 11, DEDUCED). -/
def Obligations.CallbackQueues : Prop :=
  ∀ (s t : State) (c : IrqRun), s.Inv → s.irq = some c → microStep .irq s = .next t →
    t.queue .rx = s.queue .rx ++ c.pos.pushesRx ∧ s.queue .tx = c.pos.popsTx ++ t.queue .tx ∧
    (∀ v ∈ c.pos.sends, (s.queue .tx).head? = some (some v)) ∧
    ∀ v, HookEvent.sendByte v ∈ t.hookOut.drop s.hookOut.length ↔ v ∈ c.pos.sends

/-- 41_foreground.md R112; 40_ringbuffer.md R97: with room for all of them, ENQs queue their bytes in order behind what is queued, each answered OK. -/
def Obligations.EnqFills : Prop :=
  ∀ (s : State) (bs : List Byte), s.Inv → s.fg = none → s.txArmed ≠ none →
    (s.queue .tx).length + bs.length ≤ s.cfg.cap .tx →
    ∃ t, execAll (bs.map .enq) s = .next t ∧ t.queue .tx = s.queue .tx ++ bs.map some ∧
      t.rspOut = s.rspOut ++ bs.map (fun _ => ⟨.ok, 0⟩) ∧ t.queue .rx = s.queue .rx

/-- 42_interrupt.md R135, R118 of 41_foreground.md: a burst of `m` queued bytes takes `m + 1` TXRDY callbacks: `m` emit `SEND_BYTE`, in order, and the last emits
`SET_TX_EN(0)`; the buffer is then empty and hardware transmission disabled. -/
def Obligations.BurstThenDisable : Prop :=
  ∀ (s : State) (bs : List Byte), s.Inv → s.fg = none → s.irq = none → s.txArmed ≠ none →
    s.hooks.getLsbD 0 = true → s.hooks.getLsbD 2 = true → s.queue .tx = bs.map some →
    ∃ t, execAll (List.replicate (bs.length + 1) .txrdy) s = .next t ∧
      t.hookOut = s.hookOut ++ bs.map HookEvent.sendByte ++ [.setTxEn false] ∧
      t.queue .tx = [] ∧ t.txEn = false ∧ t.txArmed = (if bs = [] then s.txArmed else some false) ∧
      t.queue .rx = s.queue .rx

/-- 42_interrupt.md R136, 40_ringbuffer.md R97: of any bytes delivered by RXBYTE with no DEQ between, exactly those that fit are queued, in order behind what is queued;
the rest are dropped with no signal. -/
def Obligations.ReceiveKeepsWhatFits : Prop :=
  ∀ (s : State) (bs : List Byte), s.Inv → s.inInit = false → s.irq = none → s.txArmed ≠ none →
    ∃ t, execAll (bs.map .rxbyte) s = .next t ∧
      t.queue .rx = (s.queue .rx ++ bs.map some).take (s.cfg.cap .rx) ∧
      t.hookOut = s.hookOut ∧ t.rspOut = s.rspOut ∧ t.queue .tx = s.queue .tx

/-- 41_foreground.md R115, R116; 40_ringbuffer.md R97: DEQs return the queued bytes in order; when all are taken the next DEQ answers BUFFER_EMPTY. -/
def Obligations.DeqDrains : Prop :=
  ∀ (s : State) (bs : List Byte), s.Inv → s.fg = none → s.txArmed ≠ none → s.queue .rx = bs.map some →
    ∃ t, execAll (List.replicate (bs.length + 1) .deq) s = .next t ∧
      t.rspOut = s.rspOut ++ bs.map (fun v => ⟨.ok, v.toNat⟩) ++ [⟨.bufferEmpty, 0⟩] ∧
      t.queue .rx = [] ∧ t.queue .tx = s.queue .tx

/-! ## Independence -/

/-- 60_exceptions.md R157: a TXRDY and an RXBYTE that can both run give the same state, HOOK events included, in either order. -/
def Obligations.CallbacksCommute : Prop :=
  ∀ (s t u : State) (b : Byte), exec .txrdy s = .next t → exec (.rxbyte b) s = .next u →
    ∃ x, exec (.rxbyte b) t = .next x ∧ exec .txrdy u = .next x

/-- 10_state.md R29: no operation but INIT reads or writes both directions. ENQ, TXRDY and BIND do the same whatever the receive buffer holds (within its bounds) and leave it as it is;
DEQ, RXCNT, RXBYTE and BIND do the same whatever the transmit buffer and `tx_armed`, which belongs to it, hold (within its bounds) and leave them as they are. INIT zeroes all four counters. -/
def Obligations.DirectionsIndependent : Prop :=
  (∀ (i : Instr) (s : State) (r : Ring), (i = .txrdy ∨ (∃ b, i = .enq b) ∨ ∃ m, i = .bind m) →
    s.inBounds = true → ({ s with rx := r } : State).inBounds = true →
    exec i { s with rx := r } = mapNext (fun t => { t with rx := r }) (exec i s)) ∧
  (∀ (i : Instr) (s : State) (r : Ring) (a : Option Bool), (i = .deq ∨ i = .rxcnt ∨ (∃ b, i = .rxbyte b) ∨ ∃ m, i = .bind m) →
    s.inBounds = true → ({ s with tx := r, txArmed := a } : State).inBounds = true →
    exec i { s with tx := r, txArmed := a } = mapNext (fun t => { t with tx := r, txArmed := a }) (exec i s)) ∧
  ∀ s : State, s.inBounds = true → s.fg = none → ∃ t, exec .init s = .next t ∧
    ∀ b, (t.ring b).writeIndex = some 0 ∧ (t.ring b).readIndex = some 0

/-- 10_state.md R28, 60_exceptions.md R162: no step reads the collaborator's enable bits: runs that differ only in them answer alike, and a callback is not gated by them. -/
def Obligations.EnablesUnread : Prop :=
  ∀ (s : State) (e f : Bool),
    mapNext (fun t => { t with txEn := false, rxEn := false }) (step { s with txEn := e, rxEn := f }) =
      mapNext (fun t => { t with txEn := false, rxEn := false }) (step s)

/-- 70_reset_and_hazards.md R195: two instances that differ only in a legal counter width give the same responses and hook events on every run, whatever words are
presented and however the agents interleave, and stop alike. -/
def Obligations.WidthUnobservable : Prop :=
  ∀ (c : Config) (x : Nat) (fw iw : List Word) (ts : List Turn) (n : Nat),
    let out := fun r : Result => match r with
      | .next s => Sum.inl (s.rspOut, s.hookOut)
      | .fault e => Sum.inr (Sum.inl e)
      | .refused e => Sum.inr (Sum.inr e)
    out (Host.Core.run Sys2Proof.core n { State.constructed c with fgIn := fw, irqIn := iw, turns := ts }) =
      out (Host.Core.run Sys2Proof.core n
        { State.constructed { c with extra := x } with fgIn := fw, irqIn := iw, turns := ts })

/-! ## How long operations take -/

/-- 41_foreground.md R117: INIT, BIND, ENQ, DEQ, RXCNT start with 7, 2, 8, 5, 2 micro-steps at most; each micro-step of FG ends the operation or leaves fewer, but for a blocking
ENQ that finds its buffer full, which goes back to E1 and is the only one that can block; a callback's micro-steps leave FG's operation where it is. -/
def Obligations.ForegroundBounded : Prop :=
  (∀ s : State, ((startAt .init s).fg.map FgPos.stepsLeft = some 7) ∧
    (∀ m, (startAt (.bind m) s).fg.map FgPos.stepsLeft = some 2) ∧
    (∀ b, (startAt (.enq b) s).fg.map FgPos.stepsLeft = some 8) ∧
    ((startAt .deq s).fg.map FgPos.stepsLeft = some 5) ∧ ((startAt .rxcnt s).fg.map FgPos.stepsLeft = some 2)) ∧
  (∀ (s t : State) (q : FgPos), s.fg = some q → microStep .fg s = .next t →
    t.fg = none ∨ (∃ q', t.fg = some q' ∧ q'.stepsLeft < q.stepsLeft) ∨
      (s.cfg.policy = .blocking ∧ ∃ b r w, q = .enq (.e2 b r) ∧ s.tx.writeIndex = some w ∧
        counterSub s.cfg w r = s.cfg.cap .tx ∧ t = { s with fg := some (.enq (.e1 b)) })) ∧
  ∀ s t : State, microStep .irq s = .next t → t.fg = s.fg

/-- 42_interrupt.md R137: TXRDY starts with 8 micro-steps at most and RXBYTE with 4; each micro-step of IRQ ends the callback or leaves fewer, is not refused and gives no
response; whatever FG does meanwhile leaves the callback where it is. -/
def Obligations.CallbacksBounded : Prop :=
  (∀ s : State, ((startAt .txrdy s).irq.map fun c => c.pos.stepsLeft) = some 8 ∧
    ∀ b, ((startAt (.rxbyte b) s).irq.map fun c => c.pos.stepsLeft) = some 4) ∧
  (∀ (s t : State) (c : IrqRun), s.irq = some c → microStep .irq s = .next t →
    t.rspOut = s.rspOut ∧ (t.irq = none ∨ ∃ c', t.irq = some c' ∧ c'.pos.stepsLeft < c.pos.stepsLeft)) ∧
  (∀ (s : State) (e : Refusal), s.inBounds = true → microStep .irq s ≠ .refused e) ∧
  ∀ s t : State, microStep .fg s = .next t → t.irq.map IrqRun.pos = s.irq.map IrqRun.pos

/-! ## The transmit-enable machine -/

/-- 42_interrupt.md R133: with `set_tx_enabled` and `send_byte` bound, ENQ and TXRDY at operation grain move the triple `(tx_armed, tx_en, occ(tx))` by exactly the two functions of
the rule, with exactly its hook events, from every triple; INIT, from any state with a meaning, sets `a = false`, `n = 0` and leaves `e`. -/
def Obligations.TransmitMachine : Prop :=
  (∀ (s : State) (x : Triple) (b : Byte), s.Inv → s.fg = none → s.irq = none →
    s.hooks.getLsbD 0 = true → s.hooks.getLsbD 2 = true → s.triple = some x →
    (x.queued < s.cfg.cap .tx →
      ∃ t, exec (.enq b) s = .next t ∧ t.queue .tx = s.queue .tx ++ [some b] ∧
        t.triple = some ⟨true, if x.armed = false then true else x.enabled, x.queued + 1⟩ ∧
        t.hookOut = s.hookOut ++ (if x.armed = false then [.setTxEn true] else [])) ∧
    (x.queued = s.cfg.cap .tx →
      ∃ t, exec (.enq b) s = .next t ∧ t.triple = some x ∧ t.hookOut = s.hookOut ∧ t.queue .tx = s.queue .tx ∧
        t.rspOut = s.rspOut ++ (if s.cfg.policy = .nonblocking then [⟨.bufferFull, 0⟩] else []) ∧
        t.fg = (if s.cfg.policy = .nonblocking then none else some (.enq (.e1 b)))) ∧
    (0 < x.queued →
      ∃ t v, exec .txrdy s = .next t ∧ s.queue .tx = some v :: t.queue .tx ∧
        t.triple = some ⟨if x.queued = 1 then false else x.armed, x.enabled, x.queued - 1⟩ ∧
        t.hookOut = s.hookOut ++ [.sendByte v]) ∧
    (x.queued = 0 →
      ∃ t, exec .txrdy s = .next t ∧ t.triple = some ⟨x.armed, false, 0⟩ ∧ t.hookOut = s.hookOut ++ [.setTxEn false])) ∧
  ∀ s : State, s.inBounds = true → s.fg = none → ∃ t, exec .init s = .next t ∧ t.triple = some ⟨false, s.txEn, 0⟩

/-- 42_interrupt.md R134: at operation grain, hooks bound, no operation leaves the named states IDLE, ARMED or DRAINING, DRAINED; there `tx_armed` is true exactly when a byte is
queued, and `tx_en` false means none is. -/
def Obligations.NamedStatesClosed : Prop :=
  ∀ (i : Instr) (s t : State) (x : Triple), s.Inv → s.fg = none → s.irq = none → s.hooks = 0b111#3 →
    (∀ m, i ≠ .bind m) → s.triple = some x → x.name ∈ [TxName.idle, .armedOrDraining, .drained] →
    exec i s = .next t →
    (x.armed = true ↔ 1 ≤ x.queued) ∧ (x.enabled = false → x.queued = 0) ∧
      ∃ y, t.triple = some y ∧ y.name ∈ [TxName.idle, .armedOrDraining, .drained]

/-- 70_reset_and_hazards.md R185: from DRAINED, a TXRDY between E4 and E5 of an ENQ and the TXRDY after it lead to the lost-arm state `(true, false, 0)`, with the events of the
rule's trace, for every configuration. -/
def Obligations.LostArmRace : Prop :=
  ∀ (s : State) (b : Byte) (fw iw : List Word) (ts : List Turn), s.Inv → s.fg = none → s.irq = none →
    s.hooks = 0b111#3 → s.triple = some ⟨false, true, 0⟩ →
    s.fgIn = encode (.enq b) :: fw → s.irqIn = encode .txrdy :: encode .txrdy :: iw →
    s.turns = List.replicate 4 ⟨.fg, .micro⟩ ++ [⟨.irq, .whole⟩, ⟨.fg, .whole⟩, ⟨.irq, .whole⟩] ++ ts →
    ∃ t, Host.Core.run Sys2Proof.core 7 s = .next t ∧ t.triple = some ⟨true, false, 0⟩ ∧ t.fg = none ∧ t.irq = none ∧
      t.hookOut = s.hookOut ++ [.sendByte b, .setTxEn true, .setTxEn false] ∧
      t.rspOut = s.rspOut ++ [⟨.ok, 0⟩]

/-- 70_reset_and_hazards.md R185: while `tx_armed` is true and `tx_en` false, no operation but an INIT or a TXRDY changes that: ENQ queues or meets a full buffer and never arms, so
that no event is emitted. -/
def Obligations.LostArmPersists : Prop :=
  ∀ (i : Instr) (s t : State) (n : Nat), i ≠ .init → i ≠ .txrdy → s.triple = some ⟨true, false, n⟩ →
    exec i s = .next t → t.hookOut = s.hookOut ∧ ∃ m, t.triple = some ⟨true, false, m⟩

/-- 70_reset_and_hazards.md R194: under `SCHED = interleave`, from DRAINED, an ENQ between T3 and T9 of a TXRDY leads to `(true, false, 1)` at once. -/
def Obligations.InterleaveLosesArm : Prop :=
  ∀ (s : State) (b : Byte) (fw iw : List Word) (ts : List Turn), s.Inv → s.fg = none → s.irq = none →
    s.cfg.sched = .interleave → s.hooks = 0b111#3 → s.triple = some ⟨false, true, 0⟩ →
    s.fgIn = encode (.enq b) :: fw → s.irqIn = encode .txrdy :: iw →
    s.turns = List.replicate 3 ⟨.irq, .micro⟩ ++ [⟨.fg, .whole⟩, ⟨.irq, .micro⟩] ++ ts →
    ∃ t, Host.Core.run Sys2Proof.core 5 s = .next t ∧ t.triple = some ⟨true, false, 1⟩ ∧
      t.hookOut = s.hookOut ++ [.setTxEn true, .setTxEn false]
end

