-- ==== Sys2Proof/Laws/Arith.lean ====
section
/-! SUPPORT. Counter arithmetic (40_ringbuffer.md R90 to R92): the difference, the increment and the slot, said once. -/

namespace Sys2Proof.Machine

variable {c : Config} {a b i : Nat}

theorem counterSub_lt : counterSub c a b < 2 ^ c.idxW := by
  unfold counterSub
  have hp : (0 : Int) < ((2 ^ c.idxW : Nat) : Int) := by positivity
  have h1 := Int.emod_lt_of_pos ((a : Int) - b) hp
  have h2 := Int.emod_nonneg ((a : Int) - b) hp.ne'
  omega

theorem counterInc_lt : counterInc c i < 2 ^ c.idxW := Nat.mod_lt _ (by positivity)

/-- Without a borrow the difference is the plain one. -/
theorem counterSub_of_le (ha : a < 2 ^ c.idxW) (h : b ≤ a) : counterSub c a b = a - b := by
  unfold counterSub
  rw [← Nat.cast_sub h, ← Int.natCast_mod, Int.toNat_natCast, Nat.mod_eq_of_lt (by omega)]

/-- With a borrow the counter's modulus is added (R90). -/
theorem counterSub_of_gt (hb : b < 2 ^ c.idxW) (h : a < b) : counterSub c a b = a + 2 ^ c.idxW - b := by
  unfold counterSub
  have e : ((a : Int) - b) = ((a + 2 ^ c.idxW - b : Nat) : Int) - ((2 ^ c.idxW : Nat) : Int) := by omega
  rw [e, Int.sub_emod_right, ← Int.natCast_mod, Int.toNat_natCast, Nat.mod_eq_of_lt (by omega)]

/-- A counter equal to another has difference 0. -/
@[simp] theorem counterSub_self : counterSub c a a = 0 := by simp [counterSub]

/-- The increment below the top, and at it (R91). -/
theorem counterInc_eq (h : i < 2 ^ c.idxW) : counterInc c i = if i + 1 = 2 ^ c.idxW then 0 else i + 1 := by
  unfold counterInc
  split
  · next e => rw [e, Nat.mod_self]
  · exact Nat.mod_eq_of_lt (by omega)

/-- The difference as an integer. -/
theorem counterSub_cast : (counterSub c a b : Int) = ((a : Int) - b) % ((2 ^ c.idxW : Nat) : Int) :=
  Int.toNat_of_nonneg (Int.emod_nonneg _ (by positivity))

/-- One more push, of any counters. -/
theorem counterSub_inc_left (h : counterSub c a b + 1 < 2 ^ c.idxW) :
    counterSub c (counterInc c a) b = counterSub c a b + 1 := by
  rw [← Nat.cast_inj (R := Int), counterSub_cast, counterInc, Int.natCast_mod, Int.emod_sub_emod]
  rw [show ((a + 1 : Nat) : Int) - b = (a - b) + 1 by push_cast; ring, ← Int.emod_add_emod, ← counterSub_cast]
  rw [Int.emod_eq_of_lt (by positivity) (by exact_mod_cast h)]
  push_cast; rfl

/-- One more pop, of any counters. -/
theorem counterSub_inc_right (h : 0 < counterSub c a b) : counterSub c a (counterInc c b) + 1 = counterSub c a b := by
  have hlt : counterSub c a b < 2 ^ c.idxW := counterSub_lt
  rw [← Nat.cast_inj (R := Int)]
  push_cast
  rw [counterSub_cast (b := counterInc c b), counterInc, Int.natCast_mod, Int.sub_emod_emod]
  rw [show (a : Int) - ((b + 1 : Nat) : Int) = (a - b) - 1 by push_cast; ring, ← Int.emod_sub_emod, ← counterSub_cast]
  rw [Int.emod_eq_of_lt (by omega) (by omega)]
  ring

/-- The difference of two totals that are close enough is exact (R98). -/
theorem counterSub_of_mod {p q : Nat} (h : q ≤ p) (hlt : p - q < 2 ^ c.idxW) :
    counterSub c (p % 2 ^ c.idxW) (q % 2 ^ c.idxW) = p - q := by
  unfold counterSub
  have e : (((p % 2 ^ c.idxW : Nat) : Int) - ((q % 2 ^ c.idxW : Nat) : Int)) % ((2 ^ c.idxW : Nat) : Int)
      = ((p - q : Nat) : Int) % ((2 ^ c.idxW : Nat) : Int) := by
    rw [Nat.cast_sub h, Int.natCast_mod, Int.natCast_mod]
    exact (Int.sub_emod _ _ _).symm
  rw [e, ← Int.natCast_mod, Int.toNat_natCast, Nat.mod_eq_of_lt hlt]

/-- The write counter is the read counter plus the occupancy, modulo the counters' range. -/
theorem add_counterSub : (b + counterSub c a b) % 2 ^ c.idxW = a % 2 ^ c.idxW := by
  rw [← Nat.cast_inj (R := Int), Int.natCast_mod, Nat.cast_add, counterSub_cast, Int.add_emod_emod, add_sub_cancel,
    ← Int.natCast_mod]

/-! ### Capacities and slots -/

theorem cap_pos (c : Config) (b : Buf) : 0 < c.cap b := by cases b <;> simp [Config.cap]

/-- `2^IDX_W > CAP(B)` (00_scope.md R5(b)). -/
theorem cap_lt (c : Config) (b : Buf) : c.cap b < 2 ^ c.idxW := by
  cases b <;> exact Nat.pow_lt_pow_right (by norm_num) (by unfold Config.idxW; omega)

theorem cap_dvd (c : Config) (b : Buf) : c.cap b ∣ 2 ^ c.idxW := by
  cases b <;> exact Nat.pow_dvd_pow 2 (by unfold Config.idxW; omega)

/-- Masking is the remainder (R92). -/
theorem slotOf_eq (c : Config) (b : Buf) (i : Nat) : slotOf c b i = i % c.cap b := by
  cases b <;> exact Nat.and_two_pow_sub_one_eq_mod _ _

theorem slotOf_lt (c : Config) (b : Buf) (i : Nat) : slotOf c b i < c.cap b := by
  rw [slotOf_eq]; exact Nat.mod_lt _ (cap_pos c b)

/-- A slot does not see the counter's overflow (R92). -/
theorem slotOf_mod (c : Config) (b : Buf) (i : Nat) : slotOf c b (i % 2 ^ c.idxW) = slotOf c b i := by
  rw [slotOf_eq, slotOf_eq]; exact Nat.mod_mod_of_dvd _ (cap_dvd c b)

theorem slotOf_inc_add (c : Config) (b : Buf) (i j : Nat) :
    slotOf c b (counterInc c i + j) = slotOf c b (i + 1 + j) := by
  rw [← slotOf_mod c b (i + 1 + j), ← slotOf_mod c b (counterInc c i + j)]
  unfold counterInc
  rw [Nat.mod_add_mod]

/-- Within one capacity no two offsets share a slot. -/
theorem slotOf_add_inj {c : Config} {b : Buf} {i j k : Nat} (hj : j < c.cap b) (hk : k < c.cap b)
    (h : slotOf c b (i + j) = slotOf c b (i + k)) : j = k := by
  rw [slotOf_eq, slotOf_eq] at h
  have := Nat.ModEq.add_left_cancel' i (show i + j ≡ i + k [MOD c.cap b] from h)
  rwa [Nat.ModEq, Nat.mod_eq_of_lt hj, Nat.mod_eq_of_lt hk] at this

/-- The producer's slot is the one after the queued ones. -/
theorem slotOf_write (b' : Buf) : slotOf c b' a = slotOf c b' (b + counterSub c a b) := by
  rw [← slotOf_mod c b' a, ← slotOf_mod c b' (b + _), add_counterSub]

end Sys2Proof.Machine
end

