-- ==== Sys2Proof/Laws/Memory.lean ====
section
/-! SUPPORT. The storage laws: a read after a write to the same slot gives the byte written, a write leaves every other slot
alone, and a write keeps the canonical form. -/

namespace Sys2Proof.Machine

theorem Memory.read_write_self (m : Memory) (a : Nat) (v : Byte) : (m.write a v).read a = some v := by
  induction m with
  | nil => simp [Memory.write, Memory.read]
  | cons x m ih =>
    simp only [Memory.write]
    split
    · simp [Memory.read]
    · split
      · simp [Memory.read]
      · next h1 h2 => simp [Memory.read, h2, ih]

theorem Memory.read_write_ne (m : Memory) {a b : Nat} (v : Byte) (h : b ≠ a) : (m.write a v).read b = m.read b := by
  induction m with
  | nil => simp [Memory.write, Memory.read, h]
  | cons x m ih =>
    simp only [Memory.write]
    split
    · simp [Memory.read, h]
    · split
      · next h1 h2 => subst h2; simp [Memory.read, h]
      · simp [Memory.read, ih]

theorem Memory.read_write (m : Memory) (a b : Nat) (v : Byte) :
    (m.write a v).read b = if b = a then some v else m.read b := by
  split
  · next h => rw [h, Memory.read_write_self]
  · next h => exact Memory.read_write_ne m v h

/-- A write lists the written slot and slots that were listed before, no other. -/
theorem Memory.mem_write {m : Memory} {a : Nat} {v : Byte} {x : Host.Cell} (h : x ∈ m.write a v) :
    x = (a, v) ∨ x ∈ m := by
  induction m with
  | nil => simpa [Memory.write] using h
  | cons y m ih =>
    simp only [Memory.write] at h
    split at h
    · simpa using h
    · split at h
      · simp only [List.mem_cons] at h ⊢; tauto
      · simp only [List.mem_cons] at h ⊢
        rcases h with h | h
        · tauto
        · rcases ih h with h | h <;> tauto

/-- A write keeps the canonical form. -/
theorem Memory.write_wf {m : Memory} (a : Nat) (v : Byte) (h : m.wf) : (m.write a v).wf := by
  induction m with
  | nil => simp [Memory.wf, Memory.write]
  | cons y m ih =>
    obtain ⟨hy, hm⟩ := List.pairwise_cons.mp h
    simp only [Memory.write]
    split
    · next ha =>
      refine List.pairwise_cons.mpr ⟨?_, h⟩
      intro x hx
      rcases List.mem_cons.mp hx with rfl | hx
      · exact ha
      · exact lt_trans ha (hy x hx)
    · split
      · next h1 h2 => subst h2; exact List.pairwise_cons.mpr ⟨hy, hm⟩
      · next h1 h2 =>
        refine List.pairwise_cons.mpr ⟨?_, ih hm⟩
        intro x hx
        rcases Memory.mem_write hx with rfl | hx
        · show y.1 < a
          omega
        · exact hy x hx

end Sys2Proof.Machine
end

