-- ==== Sys2Proof/Laws/State.lean ====
section
/-! SUPPORT. What each update of the state leaves in each field: one lemma per field per update. -/

namespace Sys2Proof.Machine.State

variable (s : State)

/-! ### `setRing_tx` -/

@[simp] theorem setRing_tx_cfg (r : Ring) : (s.setRing .tx r).cfg = s.cfg := rfl

@[simp] theorem setRing_tx_tx (r : Ring) : (s.setRing .tx r).tx = r := rfl

@[simp] theorem setRing_tx_rx (r : Ring) : (s.setRing .tx r).rx = s.rx := rfl

@[simp] theorem setRing_tx_txArmed (r : Ring) : (s.setRing .tx r).txArmed = s.txArmed := rfl

@[simp] theorem setRing_tx_hooks (r : Ring) : (s.setRing .tx r).hooks = s.hooks := rfl

@[simp] theorem setRing_tx_fg (r : Ring) : (s.setRing .tx r).fg = s.fg := rfl

@[simp] theorem setRing_tx_irq (r : Ring) : (s.setRing .tx r).irq = s.irq := rfl

@[simp] theorem setRing_tx_txEn (r : Ring) : (s.setRing .tx r).txEn = s.txEn := rfl

@[simp] theorem setRing_tx_rxEn (r : Ring) : (s.setRing .tx r).rxEn = s.rxEn := rfl

@[simp] theorem setRing_tx_fgIn (r : Ring) : (s.setRing .tx r).fgIn = s.fgIn := rfl

@[simp] theorem setRing_tx_irqIn (r : Ring) : (s.setRing .tx r).irqIn = s.irqIn := rfl

@[simp] theorem setRing_tx_rspOut (r : Ring) : (s.setRing .tx r).rspOut = s.rspOut := rfl

@[simp] theorem setRing_tx_hookOut (r : Ring) : (s.setRing .tx r).hookOut = s.hookOut := rfl

@[simp] theorem setRing_tx_turns (r : Ring) : (s.setRing .tx r).turns = s.turns := rfl

@[simp] theorem setRing_tx_tick (r : Ring) : (s.setRing .tx r).tick = s.tick := rfl

/-! ### `setRing_rx` -/

@[simp] theorem setRing_rx_cfg (r : Ring) : (s.setRing .rx r).cfg = s.cfg := rfl

@[simp] theorem setRing_rx_tx (r : Ring) : (s.setRing .rx r).tx = s.tx := rfl

@[simp] theorem setRing_rx_rx (r : Ring) : (s.setRing .rx r).rx = r := rfl

@[simp] theorem setRing_rx_txArmed (r : Ring) : (s.setRing .rx r).txArmed = s.txArmed := rfl

@[simp] theorem setRing_rx_hooks (r : Ring) : (s.setRing .rx r).hooks = s.hooks := rfl

@[simp] theorem setRing_rx_fg (r : Ring) : (s.setRing .rx r).fg = s.fg := rfl

@[simp] theorem setRing_rx_irq (r : Ring) : (s.setRing .rx r).irq = s.irq := rfl

@[simp] theorem setRing_rx_txEn (r : Ring) : (s.setRing .rx r).txEn = s.txEn := rfl

@[simp] theorem setRing_rx_rxEn (r : Ring) : (s.setRing .rx r).rxEn = s.rxEn := rfl

@[simp] theorem setRing_rx_fgIn (r : Ring) : (s.setRing .rx r).fgIn = s.fgIn := rfl

@[simp] theorem setRing_rx_irqIn (r : Ring) : (s.setRing .rx r).irqIn = s.irqIn := rfl

@[simp] theorem setRing_rx_rspOut (r : Ring) : (s.setRing .rx r).rspOut = s.rspOut := rfl

@[simp] theorem setRing_rx_hookOut (r : Ring) : (s.setRing .rx r).hookOut = s.hookOut := rfl

@[simp] theorem setRing_rx_turns (r : Ring) : (s.setRing .rx r).turns = s.turns := rfl

@[simp] theorem setRing_rx_tick (r : Ring) : (s.setRing .rx r).tick = s.tick := rfl

/-! ### `setWriteIndex_tx` -/

@[simp] theorem setWriteIndex_tx_cfg (v : Nat) : (s.setWriteIndex .tx v).cfg = s.cfg := rfl

@[simp] theorem setWriteIndex_tx_tx (v : Nat) : (s.setWriteIndex .tx v).tx = { s.tx with writeIndex := some v } := rfl

@[simp] theorem setWriteIndex_tx_rx (v : Nat) : (s.setWriteIndex .tx v).rx = s.rx := rfl

@[simp] theorem setWriteIndex_tx_txArmed (v : Nat) : (s.setWriteIndex .tx v).txArmed = s.txArmed := rfl

@[simp] theorem setWriteIndex_tx_hooks (v : Nat) : (s.setWriteIndex .tx v).hooks = s.hooks := rfl

@[simp] theorem setWriteIndex_tx_fg (v : Nat) : (s.setWriteIndex .tx v).fg = s.fg := rfl

@[simp] theorem setWriteIndex_tx_irq (v : Nat) : (s.setWriteIndex .tx v).irq = s.irq := rfl

@[simp] theorem setWriteIndex_tx_txEn (v : Nat) : (s.setWriteIndex .tx v).txEn = s.txEn := rfl

@[simp] theorem setWriteIndex_tx_rxEn (v : Nat) : (s.setWriteIndex .tx v).rxEn = s.rxEn := rfl

@[simp] theorem setWriteIndex_tx_fgIn (v : Nat) : (s.setWriteIndex .tx v).fgIn = s.fgIn := rfl

@[simp] theorem setWriteIndex_tx_irqIn (v : Nat) : (s.setWriteIndex .tx v).irqIn = s.irqIn := rfl

@[simp] theorem setWriteIndex_tx_rspOut (v : Nat) : (s.setWriteIndex .tx v).rspOut = s.rspOut := rfl

@[simp] theorem setWriteIndex_tx_hookOut (v : Nat) : (s.setWriteIndex .tx v).hookOut = s.hookOut := rfl

@[simp] theorem setWriteIndex_tx_turns (v : Nat) : (s.setWriteIndex .tx v).turns = s.turns := rfl

@[simp] theorem setWriteIndex_tx_tick (v : Nat) : (s.setWriteIndex .tx v).tick = s.tick := rfl

/-! ### `setWriteIndex_rx` -/

@[simp] theorem setWriteIndex_rx_cfg (v : Nat) : (s.setWriteIndex .rx v).cfg = s.cfg := rfl

@[simp] theorem setWriteIndex_rx_tx (v : Nat) : (s.setWriteIndex .rx v).tx = s.tx := rfl

@[simp] theorem setWriteIndex_rx_rx (v : Nat) : (s.setWriteIndex .rx v).rx = { s.rx with writeIndex := some v } := rfl

@[simp] theorem setWriteIndex_rx_txArmed (v : Nat) : (s.setWriteIndex .rx v).txArmed = s.txArmed := rfl

@[simp] theorem setWriteIndex_rx_hooks (v : Nat) : (s.setWriteIndex .rx v).hooks = s.hooks := rfl

@[simp] theorem setWriteIndex_rx_fg (v : Nat) : (s.setWriteIndex .rx v).fg = s.fg := rfl

@[simp] theorem setWriteIndex_rx_irq (v : Nat) : (s.setWriteIndex .rx v).irq = s.irq := rfl

@[simp] theorem setWriteIndex_rx_txEn (v : Nat) : (s.setWriteIndex .rx v).txEn = s.txEn := rfl

@[simp] theorem setWriteIndex_rx_rxEn (v : Nat) : (s.setWriteIndex .rx v).rxEn = s.rxEn := rfl

@[simp] theorem setWriteIndex_rx_fgIn (v : Nat) : (s.setWriteIndex .rx v).fgIn = s.fgIn := rfl

@[simp] theorem setWriteIndex_rx_irqIn (v : Nat) : (s.setWriteIndex .rx v).irqIn = s.irqIn := rfl

@[simp] theorem setWriteIndex_rx_rspOut (v : Nat) : (s.setWriteIndex .rx v).rspOut = s.rspOut := rfl

@[simp] theorem setWriteIndex_rx_hookOut (v : Nat) : (s.setWriteIndex .rx v).hookOut = s.hookOut := rfl

@[simp] theorem setWriteIndex_rx_turns (v : Nat) : (s.setWriteIndex .rx v).turns = s.turns := rfl

@[simp] theorem setWriteIndex_rx_tick (v : Nat) : (s.setWriteIndex .rx v).tick = s.tick := rfl

/-! ### `setReadIndex_tx` -/

@[simp] theorem setReadIndex_tx_cfg (v : Nat) : (s.setReadIndex .tx v).cfg = s.cfg := rfl

@[simp] theorem setReadIndex_tx_tx (v : Nat) : (s.setReadIndex .tx v).tx = { s.tx with readIndex := some v } := rfl

@[simp] theorem setReadIndex_tx_rx (v : Nat) : (s.setReadIndex .tx v).rx = s.rx := rfl

@[simp] theorem setReadIndex_tx_txArmed (v : Nat) : (s.setReadIndex .tx v).txArmed = s.txArmed := rfl

@[simp] theorem setReadIndex_tx_hooks (v : Nat) : (s.setReadIndex .tx v).hooks = s.hooks := rfl

@[simp] theorem setReadIndex_tx_fg (v : Nat) : (s.setReadIndex .tx v).fg = s.fg := rfl

@[simp] theorem setReadIndex_tx_irq (v : Nat) : (s.setReadIndex .tx v).irq = s.irq := rfl

@[simp] theorem setReadIndex_tx_txEn (v : Nat) : (s.setReadIndex .tx v).txEn = s.txEn := rfl

@[simp] theorem setReadIndex_tx_rxEn (v : Nat) : (s.setReadIndex .tx v).rxEn = s.rxEn := rfl

@[simp] theorem setReadIndex_tx_fgIn (v : Nat) : (s.setReadIndex .tx v).fgIn = s.fgIn := rfl

@[simp] theorem setReadIndex_tx_irqIn (v : Nat) : (s.setReadIndex .tx v).irqIn = s.irqIn := rfl

@[simp] theorem setReadIndex_tx_rspOut (v : Nat) : (s.setReadIndex .tx v).rspOut = s.rspOut := rfl

@[simp] theorem setReadIndex_tx_hookOut (v : Nat) : (s.setReadIndex .tx v).hookOut = s.hookOut := rfl

@[simp] theorem setReadIndex_tx_turns (v : Nat) : (s.setReadIndex .tx v).turns = s.turns := rfl

@[simp] theorem setReadIndex_tx_tick (v : Nat) : (s.setReadIndex .tx v).tick = s.tick := rfl

/-! ### `setReadIndex_rx` -/

@[simp] theorem setReadIndex_rx_cfg (v : Nat) : (s.setReadIndex .rx v).cfg = s.cfg := rfl

@[simp] theorem setReadIndex_rx_tx (v : Nat) : (s.setReadIndex .rx v).tx = s.tx := rfl

@[simp] theorem setReadIndex_rx_rx (v : Nat) : (s.setReadIndex .rx v).rx = { s.rx with readIndex := some v } := rfl

@[simp] theorem setReadIndex_rx_txArmed (v : Nat) : (s.setReadIndex .rx v).txArmed = s.txArmed := rfl

@[simp] theorem setReadIndex_rx_hooks (v : Nat) : (s.setReadIndex .rx v).hooks = s.hooks := rfl

@[simp] theorem setReadIndex_rx_fg (v : Nat) : (s.setReadIndex .rx v).fg = s.fg := rfl

@[simp] theorem setReadIndex_rx_irq (v : Nat) : (s.setReadIndex .rx v).irq = s.irq := rfl

@[simp] theorem setReadIndex_rx_txEn (v : Nat) : (s.setReadIndex .rx v).txEn = s.txEn := rfl

@[simp] theorem setReadIndex_rx_rxEn (v : Nat) : (s.setReadIndex .rx v).rxEn = s.rxEn := rfl

@[simp] theorem setReadIndex_rx_fgIn (v : Nat) : (s.setReadIndex .rx v).fgIn = s.fgIn := rfl

@[simp] theorem setReadIndex_rx_irqIn (v : Nat) : (s.setReadIndex .rx v).irqIn = s.irqIn := rfl

@[simp] theorem setReadIndex_rx_rspOut (v : Nat) : (s.setReadIndex .rx v).rspOut = s.rspOut := rfl

@[simp] theorem setReadIndex_rx_hookOut (v : Nat) : (s.setReadIndex .rx v).hookOut = s.hookOut := rfl

@[simp] theorem setReadIndex_rx_turns (v : Nat) : (s.setReadIndex .rx v).turns = s.turns := rfl

@[simp] theorem setReadIndex_rx_tick (v : Nat) : (s.setReadIndex .rx v).tick = s.tick := rfl

/-! ### `memWrite_tx` -/

@[simp] theorem memWrite_tx_cfg (a : Nat) (v : Byte) : (s.memWrite .tx a v).cfg = s.cfg := rfl

@[simp] theorem memWrite_tx_tx (a : Nat) (v : Byte) : (s.memWrite .tx a v).tx = { s.tx with storage := s.tx.storage.write a v } := rfl

@[simp] theorem memWrite_tx_rx (a : Nat) (v : Byte) : (s.memWrite .tx a v).rx = s.rx := rfl

@[simp] theorem memWrite_tx_txArmed (a : Nat) (v : Byte) : (s.memWrite .tx a v).txArmed = s.txArmed := rfl

@[simp] theorem memWrite_tx_hooks (a : Nat) (v : Byte) : (s.memWrite .tx a v).hooks = s.hooks := rfl

@[simp] theorem memWrite_tx_fg (a : Nat) (v : Byte) : (s.memWrite .tx a v).fg = s.fg := rfl

@[simp] theorem memWrite_tx_irq (a : Nat) (v : Byte) : (s.memWrite .tx a v).irq = s.irq := rfl

@[simp] theorem memWrite_tx_txEn (a : Nat) (v : Byte) : (s.memWrite .tx a v).txEn = s.txEn := rfl

@[simp] theorem memWrite_tx_rxEn (a : Nat) (v : Byte) : (s.memWrite .tx a v).rxEn = s.rxEn := rfl

@[simp] theorem memWrite_tx_fgIn (a : Nat) (v : Byte) : (s.memWrite .tx a v).fgIn = s.fgIn := rfl

@[simp] theorem memWrite_tx_irqIn (a : Nat) (v : Byte) : (s.memWrite .tx a v).irqIn = s.irqIn := rfl

@[simp] theorem memWrite_tx_rspOut (a : Nat) (v : Byte) : (s.memWrite .tx a v).rspOut = s.rspOut := rfl

@[simp] theorem memWrite_tx_hookOut (a : Nat) (v : Byte) : (s.memWrite .tx a v).hookOut = s.hookOut := rfl

@[simp] theorem memWrite_tx_turns (a : Nat) (v : Byte) : (s.memWrite .tx a v).turns = s.turns := rfl

@[simp] theorem memWrite_tx_tick (a : Nat) (v : Byte) : (s.memWrite .tx a v).tick = s.tick := rfl

/-! ### `memWrite_rx` -/

@[simp] theorem memWrite_rx_cfg (a : Nat) (v : Byte) : (s.memWrite .rx a v).cfg = s.cfg := rfl

@[simp] theorem memWrite_rx_tx (a : Nat) (v : Byte) : (s.memWrite .rx a v).tx = s.tx := rfl

@[simp] theorem memWrite_rx_rx (a : Nat) (v : Byte) : (s.memWrite .rx a v).rx = { s.rx with storage := s.rx.storage.write a v } := rfl

@[simp] theorem memWrite_rx_txArmed (a : Nat) (v : Byte) : (s.memWrite .rx a v).txArmed = s.txArmed := rfl

@[simp] theorem memWrite_rx_hooks (a : Nat) (v : Byte) : (s.memWrite .rx a v).hooks = s.hooks := rfl

@[simp] theorem memWrite_rx_fg (a : Nat) (v : Byte) : (s.memWrite .rx a v).fg = s.fg := rfl

@[simp] theorem memWrite_rx_irq (a : Nat) (v : Byte) : (s.memWrite .rx a v).irq = s.irq := rfl

@[simp] theorem memWrite_rx_txEn (a : Nat) (v : Byte) : (s.memWrite .rx a v).txEn = s.txEn := rfl

@[simp] theorem memWrite_rx_rxEn (a : Nat) (v : Byte) : (s.memWrite .rx a v).rxEn = s.rxEn := rfl

@[simp] theorem memWrite_rx_fgIn (a : Nat) (v : Byte) : (s.memWrite .rx a v).fgIn = s.fgIn := rfl

@[simp] theorem memWrite_rx_irqIn (a : Nat) (v : Byte) : (s.memWrite .rx a v).irqIn = s.irqIn := rfl

@[simp] theorem memWrite_rx_rspOut (a : Nat) (v : Byte) : (s.memWrite .rx a v).rspOut = s.rspOut := rfl

@[simp] theorem memWrite_rx_hookOut (a : Nat) (v : Byte) : (s.memWrite .rx a v).hookOut = s.hookOut := rfl

@[simp] theorem memWrite_rx_turns (a : Nat) (v : Byte) : (s.memWrite .rx a v).turns = s.turns := rfl

@[simp] theorem memWrite_rx_tick (a : Nat) (v : Byte) : (s.memWrite .rx a v).tick = s.tick := rfl

/-! ### `setArmed` -/

@[simp] theorem setArmed_cfg (v : Bool) : (s.setArmed v).cfg = s.cfg := rfl

@[simp] theorem setArmed_tx (v : Bool) : (s.setArmed v).tx = s.tx := rfl

@[simp] theorem setArmed_rx (v : Bool) : (s.setArmed v).rx = s.rx := rfl

@[simp] theorem setArmed_txArmed (v : Bool) : (s.setArmed v).txArmed = some v := rfl

@[simp] theorem setArmed_hooks (v : Bool) : (s.setArmed v).hooks = s.hooks := rfl

@[simp] theorem setArmed_fg (v : Bool) : (s.setArmed v).fg = s.fg := rfl

@[simp] theorem setArmed_irq (v : Bool) : (s.setArmed v).irq = s.irq := rfl

@[simp] theorem setArmed_txEn (v : Bool) : (s.setArmed v).txEn = s.txEn := rfl

@[simp] theorem setArmed_rxEn (v : Bool) : (s.setArmed v).rxEn = s.rxEn := rfl

@[simp] theorem setArmed_fgIn (v : Bool) : (s.setArmed v).fgIn = s.fgIn := rfl

@[simp] theorem setArmed_irqIn (v : Bool) : (s.setArmed v).irqIn = s.irqIn := rfl

@[simp] theorem setArmed_rspOut (v : Bool) : (s.setArmed v).rspOut = s.rspOut := rfl

@[simp] theorem setArmed_hookOut (v : Bool) : (s.setArmed v).hookOut = s.hookOut := rfl

@[simp] theorem setArmed_turns (v : Bool) : (s.setArmed v).turns = s.turns := rfl

@[simp] theorem setArmed_tick (v : Bool) : (s.setArmed v).tick = s.tick := rfl

/-! ### `setHooks` -/

@[simp] theorem setHooks_cfg (m : BitVec 3) : (s.setHooks m).cfg = s.cfg := rfl

@[simp] theorem setHooks_tx (m : BitVec 3) : (s.setHooks m).tx = s.tx := rfl

@[simp] theorem setHooks_rx (m : BitVec 3) : (s.setHooks m).rx = s.rx := rfl

@[simp] theorem setHooks_txArmed (m : BitVec 3) : (s.setHooks m).txArmed = s.txArmed := rfl

@[simp] theorem setHooks_hooks (m : BitVec 3) : (s.setHooks m).hooks = m := rfl

@[simp] theorem setHooks_fg (m : BitVec 3) : (s.setHooks m).fg = s.fg := rfl

@[simp] theorem setHooks_irq (m : BitVec 3) : (s.setHooks m).irq = s.irq := rfl

@[simp] theorem setHooks_txEn (m : BitVec 3) : (s.setHooks m).txEn = s.txEn := rfl

@[simp] theorem setHooks_rxEn (m : BitVec 3) : (s.setHooks m).rxEn = s.rxEn := rfl

@[simp] theorem setHooks_fgIn (m : BitVec 3) : (s.setHooks m).fgIn = s.fgIn := rfl

@[simp] theorem setHooks_irqIn (m : BitVec 3) : (s.setHooks m).irqIn = s.irqIn := rfl

@[simp] theorem setHooks_rspOut (m : BitVec 3) : (s.setHooks m).rspOut = s.rspOut := rfl

@[simp] theorem setHooks_hookOut (m : BitVec 3) : (s.setHooks m).hookOut = s.hookOut := rfl

@[simp] theorem setHooks_turns (m : BitVec 3) : (s.setHooks m).turns = s.turns := rfl

@[simp] theorem setHooks_tick (m : BitVec 3) : (s.setHooks m).tick = s.tick := rfl

/-! ### `setFg` -/

@[simp] theorem setFg_cfg (p : Option FgPos) : (s.setFg p).cfg = s.cfg := rfl

@[simp] theorem setFg_tx (p : Option FgPos) : (s.setFg p).tx = s.tx := rfl

@[simp] theorem setFg_rx (p : Option FgPos) : (s.setFg p).rx = s.rx := rfl

@[simp] theorem setFg_txArmed (p : Option FgPos) : (s.setFg p).txArmed = s.txArmed := rfl

@[simp] theorem setFg_hooks (p : Option FgPos) : (s.setFg p).hooks = s.hooks := rfl

@[simp] theorem setFg_fg (p : Option FgPos) : (s.setFg p).fg = p := rfl

@[simp] theorem setFg_irq (p : Option FgPos) : (s.setFg p).irq = s.irq := rfl

@[simp] theorem setFg_txEn (p : Option FgPos) : (s.setFg p).txEn = s.txEn := rfl

@[simp] theorem setFg_rxEn (p : Option FgPos) : (s.setFg p).rxEn = s.rxEn := rfl

@[simp] theorem setFg_fgIn (p : Option FgPos) : (s.setFg p).fgIn = s.fgIn := rfl

@[simp] theorem setFg_irqIn (p : Option FgPos) : (s.setFg p).irqIn = s.irqIn := rfl

@[simp] theorem setFg_rspOut (p : Option FgPos) : (s.setFg p).rspOut = s.rspOut := rfl

@[simp] theorem setFg_hookOut (p : Option FgPos) : (s.setFg p).hookOut = s.hookOut := rfl

@[simp] theorem setFg_turns (p : Option FgPos) : (s.setFg p).turns = s.turns := rfl

@[simp] theorem setFg_tick (p : Option FgPos) : (s.setFg p).tick = s.tick := rfl

/-! ### `emit_sendByte` -/

@[simp] theorem emit_sendByte_cfg (v : Byte) : (s.emit (.sendByte v)).cfg = s.cfg := rfl

@[simp] theorem emit_sendByte_tx (v : Byte) : (s.emit (.sendByte v)).tx = s.tx := rfl

@[simp] theorem emit_sendByte_rx (v : Byte) : (s.emit (.sendByte v)).rx = s.rx := rfl

@[simp] theorem emit_sendByte_txArmed (v : Byte) : (s.emit (.sendByte v)).txArmed = s.txArmed := rfl

@[simp] theorem emit_sendByte_hooks (v : Byte) : (s.emit (.sendByte v)).hooks = s.hooks := rfl

@[simp] theorem emit_sendByte_fg (v : Byte) : (s.emit (.sendByte v)).fg = s.fg := rfl

@[simp] theorem emit_sendByte_irq (v : Byte) : (s.emit (.sendByte v)).irq = s.irq := rfl

@[simp] theorem emit_sendByte_txEn (v : Byte) : (s.emit (.sendByte v)).txEn = s.txEn := rfl

@[simp] theorem emit_sendByte_rxEn (v : Byte) : (s.emit (.sendByte v)).rxEn = s.rxEn := rfl

@[simp] theorem emit_sendByte_fgIn (v : Byte) : (s.emit (.sendByte v)).fgIn = s.fgIn := rfl

@[simp] theorem emit_sendByte_irqIn (v : Byte) : (s.emit (.sendByte v)).irqIn = s.irqIn := rfl

@[simp] theorem emit_sendByte_rspOut (v : Byte) : (s.emit (.sendByte v)).rspOut = s.rspOut := rfl

@[simp] theorem emit_sendByte_hookOut (v : Byte) : (s.emit (.sendByte v)).hookOut = s.hookOut ++ [.sendByte v] := rfl

@[simp] theorem emit_sendByte_turns (v : Byte) : (s.emit (.sendByte v)).turns = s.turns := rfl

@[simp] theorem emit_sendByte_tick (v : Byte) : (s.emit (.sendByte v)).tick = s.tick := rfl

/-! ### `emit_setRxEn` -/

@[simp] theorem emit_setRxEn_cfg (b : Bool) : (s.emit (.setRxEn b)).cfg = s.cfg := rfl

@[simp] theorem emit_setRxEn_tx (b : Bool) : (s.emit (.setRxEn b)).tx = s.tx := rfl

@[simp] theorem emit_setRxEn_rx (b : Bool) : (s.emit (.setRxEn b)).rx = s.rx := rfl

@[simp] theorem emit_setRxEn_txArmed (b : Bool) : (s.emit (.setRxEn b)).txArmed = s.txArmed := rfl

@[simp] theorem emit_setRxEn_hooks (b : Bool) : (s.emit (.setRxEn b)).hooks = s.hooks := rfl

@[simp] theorem emit_setRxEn_fg (b : Bool) : (s.emit (.setRxEn b)).fg = s.fg := rfl

@[simp] theorem emit_setRxEn_irq (b : Bool) : (s.emit (.setRxEn b)).irq = s.irq := rfl

@[simp] theorem emit_setRxEn_txEn (b : Bool) : (s.emit (.setRxEn b)).txEn = s.txEn := rfl

@[simp] theorem emit_setRxEn_rxEn (b : Bool) : (s.emit (.setRxEn b)).rxEn = b := rfl

@[simp] theorem emit_setRxEn_fgIn (b : Bool) : (s.emit (.setRxEn b)).fgIn = s.fgIn := rfl

@[simp] theorem emit_setRxEn_irqIn (b : Bool) : (s.emit (.setRxEn b)).irqIn = s.irqIn := rfl

@[simp] theorem emit_setRxEn_rspOut (b : Bool) : (s.emit (.setRxEn b)).rspOut = s.rspOut := rfl

@[simp] theorem emit_setRxEn_hookOut (b : Bool) : (s.emit (.setRxEn b)).hookOut = s.hookOut ++ [.setRxEn b] := rfl

@[simp] theorem emit_setRxEn_turns (b : Bool) : (s.emit (.setRxEn b)).turns = s.turns := rfl

@[simp] theorem emit_setRxEn_tick (b : Bool) : (s.emit (.setRxEn b)).tick = s.tick := rfl

/-! ### `emit_setTxEn` -/

@[simp] theorem emit_setTxEn_cfg (b : Bool) : (s.emit (.setTxEn b)).cfg = s.cfg := rfl

@[simp] theorem emit_setTxEn_tx (b : Bool) : (s.emit (.setTxEn b)).tx = s.tx := rfl

@[simp] theorem emit_setTxEn_rx (b : Bool) : (s.emit (.setTxEn b)).rx = s.rx := rfl

@[simp] theorem emit_setTxEn_txArmed (b : Bool) : (s.emit (.setTxEn b)).txArmed = s.txArmed := rfl

@[simp] theorem emit_setTxEn_hooks (b : Bool) : (s.emit (.setTxEn b)).hooks = s.hooks := rfl

@[simp] theorem emit_setTxEn_fg (b : Bool) : (s.emit (.setTxEn b)).fg = s.fg := rfl

@[simp] theorem emit_setTxEn_irq (b : Bool) : (s.emit (.setTxEn b)).irq = s.irq := rfl

@[simp] theorem emit_setTxEn_txEn (b : Bool) : (s.emit (.setTxEn b)).txEn = b := rfl

@[simp] theorem emit_setTxEn_rxEn (b : Bool) : (s.emit (.setTxEn b)).rxEn = s.rxEn := rfl

@[simp] theorem emit_setTxEn_fgIn (b : Bool) : (s.emit (.setTxEn b)).fgIn = s.fgIn := rfl

@[simp] theorem emit_setTxEn_irqIn (b : Bool) : (s.emit (.setTxEn b)).irqIn = s.irqIn := rfl

@[simp] theorem emit_setTxEn_rspOut (b : Bool) : (s.emit (.setTxEn b)).rspOut = s.rspOut := rfl

@[simp] theorem emit_setTxEn_hookOut (b : Bool) : (s.emit (.setTxEn b)).hookOut = s.hookOut ++ [.setTxEn b] := rfl

@[simp] theorem emit_setTxEn_turns (b : Bool) : (s.emit (.setTxEn b)).turns = s.turns := rfl

@[simp] theorem emit_setTxEn_tick (b : Bool) : (s.emit (.setTxEn b)).tick = s.tick := rfl

/-! ### `respond` -/

@[simp] theorem respond_cfg (t : Status) (v : Nat) : (s.respond t v).cfg = s.cfg := rfl

@[simp] theorem respond_tx (t : Status) (v : Nat) : (s.respond t v).tx = s.tx := rfl

@[simp] theorem respond_rx (t : Status) (v : Nat) : (s.respond t v).rx = s.rx := rfl

@[simp] theorem respond_txArmed (t : Status) (v : Nat) : (s.respond t v).txArmed = s.txArmed := rfl

@[simp] theorem respond_hooks (t : Status) (v : Nat) : (s.respond t v).hooks = s.hooks := rfl

@[simp] theorem respond_fg (t : Status) (v : Nat) : (s.respond t v).fg = s.fg := rfl

@[simp] theorem respond_irq (t : Status) (v : Nat) : (s.respond t v).irq = s.irq := rfl

@[simp] theorem respond_txEn (t : Status) (v : Nat) : (s.respond t v).txEn = s.txEn := rfl

@[simp] theorem respond_rxEn (t : Status) (v : Nat) : (s.respond t v).rxEn = s.rxEn := rfl

@[simp] theorem respond_fgIn (t : Status) (v : Nat) : (s.respond t v).fgIn = s.fgIn := rfl

@[simp] theorem respond_irqIn (t : Status) (v : Nat) : (s.respond t v).irqIn = s.irqIn := rfl

@[simp] theorem respond_rspOut (t : Status) (v : Nat) : (s.respond t v).rspOut = s.rspOut ++ [⟨t, v⟩] := rfl

@[simp] theorem respond_hookOut (t : Status) (v : Nat) : (s.respond t v).hookOut = s.hookOut := rfl

@[simp] theorem respond_turns (t : Status) (v : Nat) : (s.respond t v).turns = s.turns := rfl

@[simp] theorem respond_tick (t : Status) (v : Nat) : (s.respond t v).tick = s.tick := rfl

/-! ### `returns` -/

@[simp] theorem returns_cfg (t : Status) (v : Nat) : (s.returns t v).cfg = s.cfg := rfl

@[simp] theorem returns_tx (t : Status) (v : Nat) : (s.returns t v).tx = s.tx := rfl

@[simp] theorem returns_rx (t : Status) (v : Nat) : (s.returns t v).rx = s.rx := rfl

@[simp] theorem returns_txArmed (t : Status) (v : Nat) : (s.returns t v).txArmed = s.txArmed := rfl

@[simp] theorem returns_hooks (t : Status) (v : Nat) : (s.returns t v).hooks = s.hooks := rfl

@[simp] theorem returns_fg (t : Status) (v : Nat) : (s.returns t v).fg = none := rfl

@[simp] theorem returns_irq (t : Status) (v : Nat) : (s.returns t v).irq = s.irq := rfl

@[simp] theorem returns_txEn (t : Status) (v : Nat) : (s.returns t v).txEn = s.txEn := rfl

@[simp] theorem returns_rxEn (t : Status) (v : Nat) : (s.returns t v).rxEn = s.rxEn := rfl

@[simp] theorem returns_fgIn (t : Status) (v : Nat) : (s.returns t v).fgIn = s.fgIn := rfl

@[simp] theorem returns_irqIn (t : Status) (v : Nat) : (s.returns t v).irqIn = s.irqIn := rfl

@[simp] theorem returns_rspOut (t : Status) (v : Nat) : (s.returns t v).rspOut = s.rspOut ++ [⟨t, v⟩] := rfl

@[simp] theorem returns_hookOut (t : Status) (v : Nat) : (s.returns t v).hookOut = s.hookOut := rfl

@[simp] theorem returns_turns (t : Status) (v : Nat) : (s.returns t v).turns = s.turns := rfl

@[simp] theorem returns_tick (t : Status) (v : Nat) : (s.returns t v).tick = s.tick := rfl

/-! ### `enterCallback` -/

@[simp] theorem enterCallback_cfg (p : IrqPos) : (s.enterCallback p).cfg = s.cfg := rfl

@[simp] theorem enterCallback_tx (p : IrqPos) : (s.enterCallback p).tx = s.tx := rfl

@[simp] theorem enterCallback_rx (p : IrqPos) : (s.enterCallback p).rx = s.rx := rfl

@[simp] theorem enterCallback_txArmed (p : IrqPos) : (s.enterCallback p).txArmed = s.txArmed := rfl

@[simp] theorem enterCallback_hooks (p : IrqPos) : (s.enterCallback p).hooks = s.hooks := rfl

@[simp] theorem enterCallback_fg (p : IrqPos) : (s.enterCallback p).fg = s.fg := rfl

@[simp] theorem enterCallback_irq (p : IrqPos) : (s.enterCallback p).irq = some ⟨p, false⟩ := rfl

@[simp] theorem enterCallback_txEn (p : IrqPos) : (s.enterCallback p).txEn = s.txEn := rfl

@[simp] theorem enterCallback_rxEn (p : IrqPos) : (s.enterCallback p).rxEn = s.rxEn := rfl

@[simp] theorem enterCallback_fgIn (p : IrqPos) : (s.enterCallback p).fgIn = s.fgIn := rfl

@[simp] theorem enterCallback_irqIn (p : IrqPos) : (s.enterCallback p).irqIn = s.irqIn := rfl

@[simp] theorem enterCallback_rspOut (p : IrqPos) : (s.enterCallback p).rspOut = s.rspOut := rfl

@[simp] theorem enterCallback_hookOut (p : IrqPos) : (s.enterCallback p).hookOut = s.hookOut := rfl

@[simp] theorem enterCallback_turns (p : IrqPos) : (s.enterCallback p).turns = s.turns := rfl

@[simp] theorem enterCallback_tick (p : IrqPos) : (s.enterCallback p).tick = s.tick := rfl

/-! ### `endCallback` -/

@[simp] theorem endCallback_cfg : (s.endCallback).cfg = s.cfg := rfl

@[simp] theorem endCallback_tx : (s.endCallback).tx = s.tx := rfl

@[simp] theorem endCallback_rx : (s.endCallback).rx = s.rx := rfl

@[simp] theorem endCallback_txArmed : (s.endCallback).txArmed = s.txArmed := rfl

@[simp] theorem endCallback_hooks : (s.endCallback).hooks = s.hooks := rfl

@[simp] theorem endCallback_fg : (s.endCallback).fg = s.fg := rfl

@[simp] theorem endCallback_irq : (s.endCallback).irq = none := rfl

@[simp] theorem endCallback_txEn : (s.endCallback).txEn = s.txEn := rfl

@[simp] theorem endCallback_rxEn : (s.endCallback).rxEn = s.rxEn := rfl

@[simp] theorem endCallback_fgIn : (s.endCallback).fgIn = s.fgIn := rfl

@[simp] theorem endCallback_irqIn : (s.endCallback).irqIn = s.irqIn := rfl

@[simp] theorem endCallback_rspOut : (s.endCallback).rspOut = s.rspOut := rfl

@[simp] theorem endCallback_hookOut : (s.endCallback).hookOut = s.hookOut := rfl

@[simp] theorem endCallback_turns : (s.endCallback).turns = s.turns := rfl

@[simp] theorem endCallback_tick : (s.endCallback).tick = s.tick := rfl

/-! ### `setIrqPos` -/

@[simp] theorem setIrqPos_cfg (p : IrqPos) : (s.setIrqPos p).cfg = s.cfg := rfl

@[simp] theorem setIrqPos_tx (p : IrqPos) : (s.setIrqPos p).tx = s.tx := rfl

@[simp] theorem setIrqPos_rx (p : IrqPos) : (s.setIrqPos p).rx = s.rx := rfl

@[simp] theorem setIrqPos_txArmed (p : IrqPos) : (s.setIrqPos p).txArmed = s.txArmed := rfl

@[simp] theorem setIrqPos_hooks (p : IrqPos) : (s.setIrqPos p).hooks = s.hooks := rfl

@[simp] theorem setIrqPos_fg (p : IrqPos) : (s.setIrqPos p).fg = s.fg := rfl

@[simp] theorem setIrqPos_irq (p : IrqPos) : (s.setIrqPos p).irq = s.irq.map fun c => { c with pos := p } := rfl

@[simp] theorem setIrqPos_txEn (p : IrqPos) : (s.setIrqPos p).txEn = s.txEn := rfl

@[simp] theorem setIrqPos_rxEn (p : IrqPos) : (s.setIrqPos p).rxEn = s.rxEn := rfl

@[simp] theorem setIrqPos_fgIn (p : IrqPos) : (s.setIrqPos p).fgIn = s.fgIn := rfl

@[simp] theorem setIrqPos_irqIn (p : IrqPos) : (s.setIrqPos p).irqIn = s.irqIn := rfl

@[simp] theorem setIrqPos_rspOut (p : IrqPos) : (s.setIrqPos p).rspOut = s.rspOut := rfl

@[simp] theorem setIrqPos_hookOut (p : IrqPos) : (s.setIrqPos p).hookOut = s.hookOut := rfl

@[simp] theorem setIrqPos_turns (p : IrqPos) : (s.setIrqPos p).turns = s.turns := rfl

@[simp] theorem setIrqPos_tick (p : IrqPos) : (s.setIrqPos p).tick = s.tick := rfl

/-! ### `markRaced` -/

@[simp] theorem markRaced_cfg : (s.markRaced).cfg = s.cfg := rfl

@[simp] theorem markRaced_tx : (s.markRaced).tx = s.tx := rfl

@[simp] theorem markRaced_rx : (s.markRaced).rx = s.rx := rfl

@[simp] theorem markRaced_txArmed : (s.markRaced).txArmed = s.txArmed := rfl

@[simp] theorem markRaced_hooks : (s.markRaced).hooks = s.hooks := rfl

@[simp] theorem markRaced_fg : (s.markRaced).fg = s.fg := rfl

@[simp] theorem markRaced_irq : (s.markRaced).irq = s.irq.map fun c => { c with raced := true } := rfl

@[simp] theorem markRaced_txEn : (s.markRaced).txEn = s.txEn := rfl

@[simp] theorem markRaced_rxEn : (s.markRaced).rxEn = s.rxEn := rfl

@[simp] theorem markRaced_fgIn : (s.markRaced).fgIn = s.fgIn := rfl

@[simp] theorem markRaced_irqIn : (s.markRaced).irqIn = s.irqIn := rfl

@[simp] theorem markRaced_rspOut : (s.markRaced).rspOut = s.rspOut := rfl

@[simp] theorem markRaced_hookOut : (s.markRaced).hookOut = s.hookOut := rfl

@[simp] theorem markRaced_turns : (s.markRaced).turns = s.turns := rfl

@[simp] theorem markRaced_tick : (s.markRaced).tick = s.tick := rfl

/-! ### `setWords_fg` -/

@[simp] theorem setWords_fg_cfg (ws : List Word) : (s.setWords .fg ws).cfg = s.cfg := rfl

@[simp] theorem setWords_fg_tx (ws : List Word) : (s.setWords .fg ws).tx = s.tx := rfl

@[simp] theorem setWords_fg_rx (ws : List Word) : (s.setWords .fg ws).rx = s.rx := rfl

@[simp] theorem setWords_fg_txArmed (ws : List Word) : (s.setWords .fg ws).txArmed = s.txArmed := rfl

@[simp] theorem setWords_fg_hooks (ws : List Word) : (s.setWords .fg ws).hooks = s.hooks := rfl

@[simp] theorem setWords_fg_fg (ws : List Word) : (s.setWords .fg ws).fg = s.fg := rfl

@[simp] theorem setWords_fg_irq (ws : List Word) : (s.setWords .fg ws).irq = s.irq := rfl

@[simp] theorem setWords_fg_txEn (ws : List Word) : (s.setWords .fg ws).txEn = s.txEn := rfl

@[simp] theorem setWords_fg_rxEn (ws : List Word) : (s.setWords .fg ws).rxEn = s.rxEn := rfl

@[simp] theorem setWords_fg_fgIn (ws : List Word) : (s.setWords .fg ws).fgIn = ws := rfl

@[simp] theorem setWords_fg_irqIn (ws : List Word) : (s.setWords .fg ws).irqIn = s.irqIn := rfl

@[simp] theorem setWords_fg_rspOut (ws : List Word) : (s.setWords .fg ws).rspOut = s.rspOut := rfl

@[simp] theorem setWords_fg_hookOut (ws : List Word) : (s.setWords .fg ws).hookOut = s.hookOut := rfl

@[simp] theorem setWords_fg_turns (ws : List Word) : (s.setWords .fg ws).turns = s.turns := rfl

@[simp] theorem setWords_fg_tick (ws : List Word) : (s.setWords .fg ws).tick = s.tick := rfl

/-! ### `setWords_irq` -/

@[simp] theorem setWords_irq_cfg (ws : List Word) : (s.setWords .irq ws).cfg = s.cfg := rfl

@[simp] theorem setWords_irq_tx (ws : List Word) : (s.setWords .irq ws).tx = s.tx := rfl

@[simp] theorem setWords_irq_rx (ws : List Word) : (s.setWords .irq ws).rx = s.rx := rfl

@[simp] theorem setWords_irq_txArmed (ws : List Word) : (s.setWords .irq ws).txArmed = s.txArmed := rfl

@[simp] theorem setWords_irq_hooks (ws : List Word) : (s.setWords .irq ws).hooks = s.hooks := rfl

@[simp] theorem setWords_irq_fg (ws : List Word) : (s.setWords .irq ws).fg = s.fg := rfl

@[simp] theorem setWords_irq_irq (ws : List Word) : (s.setWords .irq ws).irq = s.irq := rfl

@[simp] theorem setWords_irq_txEn (ws : List Word) : (s.setWords .irq ws).txEn = s.txEn := rfl

@[simp] theorem setWords_irq_rxEn (ws : List Word) : (s.setWords .irq ws).rxEn = s.rxEn := rfl

@[simp] theorem setWords_irq_fgIn (ws : List Word) : (s.setWords .irq ws).fgIn = s.fgIn := rfl

@[simp] theorem setWords_irq_irqIn (ws : List Word) : (s.setWords .irq ws).irqIn = ws := rfl

@[simp] theorem setWords_irq_rspOut (ws : List Word) : (s.setWords .irq ws).rspOut = s.rspOut := rfl

@[simp] theorem setWords_irq_hookOut (ws : List Word) : (s.setWords .irq ws).hookOut = s.hookOut := rfl

@[simp] theorem setWords_irq_turns (ws : List Word) : (s.setWords .irq ws).turns = s.turns := rfl

@[simp] theorem setWords_irq_tick (ws : List Word) : (s.setWords .irq ws).tick = s.tick := rfl

/-! ### `emitIfBound_setRxEn` -/

@[simp] theorem emitIfBound_setRxEn_cfg (b : Bool) : (s.emitIfBound (.setRxEn b)).cfg = s.cfg := by unfold emitIfBound; split <;> simp_all [HookEvent.hook]

@[simp] theorem emitIfBound_setRxEn_tx (b : Bool) : (s.emitIfBound (.setRxEn b)).tx = s.tx := by unfold emitIfBound; split <;> simp_all [HookEvent.hook]

@[simp] theorem emitIfBound_setRxEn_rx (b : Bool) : (s.emitIfBound (.setRxEn b)).rx = s.rx := by unfold emitIfBound; split <;> simp_all [HookEvent.hook]

@[simp] theorem emitIfBound_setRxEn_txArmed (b : Bool) : (s.emitIfBound (.setRxEn b)).txArmed = s.txArmed := by unfold emitIfBound; split <;> simp_all [HookEvent.hook]

@[simp] theorem emitIfBound_setRxEn_hooks (b : Bool) : (s.emitIfBound (.setRxEn b)).hooks = s.hooks := by unfold emitIfBound; split <;> simp_all [HookEvent.hook]

@[simp] theorem emitIfBound_setRxEn_fg (b : Bool) : (s.emitIfBound (.setRxEn b)).fg = s.fg := by unfold emitIfBound; split <;> simp_all [HookEvent.hook]

@[simp] theorem emitIfBound_setRxEn_irq (b : Bool) : (s.emitIfBound (.setRxEn b)).irq = s.irq := by unfold emitIfBound; split <;> simp_all [HookEvent.hook]

@[simp] theorem emitIfBound_setRxEn_txEn (b : Bool) : (s.emitIfBound (.setRxEn b)).txEn = s.txEn := by unfold emitIfBound; split <;> simp_all [HookEvent.hook]

@[simp] theorem emitIfBound_setRxEn_rxEn (b : Bool) : (s.emitIfBound (.setRxEn b)).rxEn = if s.bound .setRxEn then b else s.rxEn := by unfold emitIfBound; split <;> simp_all [HookEvent.hook]

@[simp] theorem emitIfBound_setRxEn_fgIn (b : Bool) : (s.emitIfBound (.setRxEn b)).fgIn = s.fgIn := by unfold emitIfBound; split <;> simp_all [HookEvent.hook]

@[simp] theorem emitIfBound_setRxEn_irqIn (b : Bool) : (s.emitIfBound (.setRxEn b)).irqIn = s.irqIn := by unfold emitIfBound; split <;> simp_all [HookEvent.hook]

@[simp] theorem emitIfBound_setRxEn_rspOut (b : Bool) : (s.emitIfBound (.setRxEn b)).rspOut = s.rspOut := by unfold emitIfBound; split <;> simp_all [HookEvent.hook]

@[simp] theorem emitIfBound_setRxEn_hookOut (b : Bool) : (s.emitIfBound (.setRxEn b)).hookOut = if s.bound .setRxEn then s.hookOut ++ [.setRxEn b] else s.hookOut := by unfold emitIfBound; split <;> simp_all [HookEvent.hook]

@[simp] theorem emitIfBound_setRxEn_turns (b : Bool) : (s.emitIfBound (.setRxEn b)).turns = s.turns := by unfold emitIfBound; split <;> simp_all [HookEvent.hook]

@[simp] theorem emitIfBound_setRxEn_tick (b : Bool) : (s.emitIfBound (.setRxEn b)).tick = s.tick := by unfold emitIfBound; split <;> simp_all [HookEvent.hook]

/-! ### `emitIfBound_setTxEn` -/

@[simp] theorem emitIfBound_setTxEn_cfg (b : Bool) : (s.emitIfBound (.setTxEn b)).cfg = s.cfg := by unfold emitIfBound; split <;> simp_all [HookEvent.hook]

@[simp] theorem emitIfBound_setTxEn_tx (b : Bool) : (s.emitIfBound (.setTxEn b)).tx = s.tx := by unfold emitIfBound; split <;> simp_all [HookEvent.hook]

@[simp] theorem emitIfBound_setTxEn_rx (b : Bool) : (s.emitIfBound (.setTxEn b)).rx = s.rx := by unfold emitIfBound; split <;> simp_all [HookEvent.hook]

@[simp] theorem emitIfBound_setTxEn_txArmed (b : Bool) : (s.emitIfBound (.setTxEn b)).txArmed = s.txArmed := by unfold emitIfBound; split <;> simp_all [HookEvent.hook]

@[simp] theorem emitIfBound_setTxEn_hooks (b : Bool) : (s.emitIfBound (.setTxEn b)).hooks = s.hooks := by unfold emitIfBound; split <;> simp_all [HookEvent.hook]

@[simp] theorem emitIfBound_setTxEn_fg (b : Bool) : (s.emitIfBound (.setTxEn b)).fg = s.fg := by unfold emitIfBound; split <;> simp_all [HookEvent.hook]

@[simp] theorem emitIfBound_setTxEn_irq (b : Bool) : (s.emitIfBound (.setTxEn b)).irq = s.irq := by unfold emitIfBound; split <;> simp_all [HookEvent.hook]

@[simp] theorem emitIfBound_setTxEn_txEn (b : Bool) : (s.emitIfBound (.setTxEn b)).txEn = if s.bound .setTxEn then b else s.txEn := by unfold emitIfBound; split <;> simp_all [HookEvent.hook]

@[simp] theorem emitIfBound_setTxEn_rxEn (b : Bool) : (s.emitIfBound (.setTxEn b)).rxEn = s.rxEn := by unfold emitIfBound; split <;> simp_all [HookEvent.hook]

@[simp] theorem emitIfBound_setTxEn_fgIn (b : Bool) : (s.emitIfBound (.setTxEn b)).fgIn = s.fgIn := by unfold emitIfBound; split <;> simp_all [HookEvent.hook]

@[simp] theorem emitIfBound_setTxEn_irqIn (b : Bool) : (s.emitIfBound (.setTxEn b)).irqIn = s.irqIn := by unfold emitIfBound; split <;> simp_all [HookEvent.hook]

@[simp] theorem emitIfBound_setTxEn_rspOut (b : Bool) : (s.emitIfBound (.setTxEn b)).rspOut = s.rspOut := by unfold emitIfBound; split <;> simp_all [HookEvent.hook]

@[simp] theorem emitIfBound_setTxEn_hookOut (b : Bool) : (s.emitIfBound (.setTxEn b)).hookOut = if s.bound .setTxEn then s.hookOut ++ [.setTxEn b] else s.hookOut := by unfold emitIfBound; split <;> simp_all [HookEvent.hook]

@[simp] theorem emitIfBound_setTxEn_turns (b : Bool) : (s.emitIfBound (.setTxEn b)).turns = s.turns := by unfold emitIfBound; split <;> simp_all [HookEvent.hook]

@[simp] theorem emitIfBound_setTxEn_tick (b : Bool) : (s.emitIfBound (.setTxEn b)).tick = s.tick := by unfold emitIfBound; split <;> simp_all [HookEvent.hook]

/-! ### `dropTurn` -/

@[simp] theorem dropTurn_cfg : (s.dropTurn).cfg = s.cfg := by unfold dropTurn; split <;> simp_all

@[simp] theorem dropTurn_tx : (s.dropTurn).tx = s.tx := by unfold dropTurn; split <;> simp_all

@[simp] theorem dropTurn_rx : (s.dropTurn).rx = s.rx := by unfold dropTurn; split <;> simp_all

@[simp] theorem dropTurn_txArmed : (s.dropTurn).txArmed = s.txArmed := by unfold dropTurn; split <;> simp_all

@[simp] theorem dropTurn_hooks : (s.dropTurn).hooks = s.hooks := by unfold dropTurn; split <;> simp_all

@[simp] theorem dropTurn_fg : (s.dropTurn).fg = s.fg := by unfold dropTurn; split <;> simp_all

@[simp] theorem dropTurn_irq : (s.dropTurn).irq = s.irq := by unfold dropTurn; split <;> simp_all

@[simp] theorem dropTurn_txEn : (s.dropTurn).txEn = s.txEn := by unfold dropTurn; split <;> simp_all

@[simp] theorem dropTurn_rxEn : (s.dropTurn).rxEn = s.rxEn := by unfold dropTurn; split <;> simp_all

@[simp] theorem dropTurn_fgIn : (s.dropTurn).fgIn = s.fgIn := by unfold dropTurn; split <;> simp_all

@[simp] theorem dropTurn_irqIn : (s.dropTurn).irqIn = s.irqIn := by unfold dropTurn; split <;> simp_all

@[simp] theorem dropTurn_rspOut : (s.dropTurn).rspOut = s.rspOut := by unfold dropTurn; split <;> simp_all

@[simp] theorem dropTurn_hookOut : (s.dropTurn).hookOut = s.hookOut := by unfold dropTurn; split <;> simp_all

@[simp] theorem dropTurn_turns : (s.dropTurn).turns = s.turns.tail := by unfold dropTurn; split <;> simp_all

@[simp] theorem dropTurn_tick : (s.dropTurn).tick = if s.turns = [] then s.tick + 1 else s.tick := by unfold dropTurn; split <;> simp_all

/-! ### `armIf`, `kickIf`, `disarmIf` -/

@[simp] theorem armIf_cfg (a : Bool) : (armIf a s).cfg = s.cfg := by cases a <;> rfl

@[simp] theorem armIf_tx (a : Bool) : (armIf a s).tx = s.tx := by cases a <;> rfl

@[simp] theorem armIf_rx (a : Bool) : (armIf a s).rx = s.rx := by cases a <;> rfl

@[simp] theorem armIf_txArmed (a : Bool) : (armIf a s).txArmed = if a then s.txArmed else some true := by cases a <;> rfl

@[simp] theorem armIf_hooks (a : Bool) : (armIf a s).hooks = s.hooks := by cases a <;> rfl

@[simp] theorem armIf_fg (a : Bool) : (armIf a s).fg = s.fg := by cases a <;> rfl

@[simp] theorem armIf_irq (a : Bool) : (armIf a s).irq = s.irq := by cases a <;> rfl

@[simp] theorem armIf_txEn (a : Bool) : (armIf a s).txEn = s.txEn := by cases a <;> rfl

@[simp] theorem armIf_rxEn (a : Bool) : (armIf a s).rxEn = s.rxEn := by cases a <;> rfl

@[simp] theorem armIf_fgIn (a : Bool) : (armIf a s).fgIn = s.fgIn := by cases a <;> rfl

@[simp] theorem armIf_irqIn (a : Bool) : (armIf a s).irqIn = s.irqIn := by cases a <;> rfl

@[simp] theorem armIf_rspOut (a : Bool) : (armIf a s).rspOut = s.rspOut := by cases a <;> rfl

@[simp] theorem armIf_hookOut (a : Bool) : (armIf a s).hookOut = s.hookOut := by cases a <;> rfl

@[simp] theorem armIf_turns (a : Bool) : (armIf a s).turns = s.turns := by cases a <;> rfl

@[simp] theorem armIf_tick (a : Bool) : (armIf a s).tick = s.tick := by cases a <;> rfl

@[simp] theorem kickIf_cfg (a : Bool) : (kickIf a s).cfg = s.cfg := by cases a <;> simp [kickIf]

@[simp] theorem kickIf_tx (a : Bool) : (kickIf a s).tx = s.tx := by cases a <;> simp [kickIf]

@[simp] theorem kickIf_rx (a : Bool) : (kickIf a s).rx = s.rx := by cases a <;> simp [kickIf]

@[simp] theorem kickIf_txArmed (a : Bool) : (kickIf a s).txArmed = s.txArmed := by cases a <;> simp [kickIf]

@[simp] theorem kickIf_hooks (a : Bool) : (kickIf a s).hooks = s.hooks := by cases a <;> simp [kickIf]

@[simp] theorem kickIf_fg (a : Bool) : (kickIf a s).fg = s.fg := by cases a <;> simp [kickIf]

@[simp] theorem kickIf_irq (a : Bool) : (kickIf a s).irq = s.irq := by cases a <;> simp [kickIf]

@[simp] theorem kickIf_txEn (a : Bool) : (kickIf a s).txEn = if a = false ∧ s.bound .setTxEn = true then true else s.txEn := by cases a <;> simp [kickIf]

@[simp] theorem kickIf_rxEn (a : Bool) : (kickIf a s).rxEn = s.rxEn := by cases a <;> simp [kickIf]

@[simp] theorem kickIf_fgIn (a : Bool) : (kickIf a s).fgIn = s.fgIn := by cases a <;> simp [kickIf]

@[simp] theorem kickIf_irqIn (a : Bool) : (kickIf a s).irqIn = s.irqIn := by cases a <;> simp [kickIf]

@[simp] theorem kickIf_rspOut (a : Bool) : (kickIf a s).rspOut = s.rspOut := by cases a <;> simp [kickIf]

@[simp] theorem kickIf_hookOut (a : Bool) : (kickIf a s).hookOut = if a = false ∧ s.bound .setTxEn = true then s.hookOut ++ [.setTxEn true] else s.hookOut := by cases a <;> simp [kickIf]

@[simp] theorem kickIf_turns (a : Bool) : (kickIf a s).turns = s.turns := by cases a <;> simp [kickIf]

@[simp] theorem kickIf_tick (a : Bool) : (kickIf a s).tick = s.tick := by cases a <;> simp [kickIf]

@[simp] theorem disarmIf_cfg (n : Nat) : (disarmIf n s).cfg = s.cfg := by unfold disarmIf; split <;> rfl

@[simp] theorem disarmIf_tx (n : Nat) : (disarmIf n s).tx = s.tx := by unfold disarmIf; split <;> rfl

@[simp] theorem disarmIf_rx (n : Nat) : (disarmIf n s).rx = s.rx := by unfold disarmIf; split <;> rfl

@[simp] theorem disarmIf_txArmed (n : Nat) : (disarmIf n s).txArmed = if n = 0 then some false else s.txArmed := by unfold disarmIf; split <;> rfl

@[simp] theorem disarmIf_hooks (n : Nat) : (disarmIf n s).hooks = s.hooks := by unfold disarmIf; split <;> rfl

@[simp] theorem disarmIf_fg (n : Nat) : (disarmIf n s).fg = s.fg := by unfold disarmIf; split <;> rfl

@[simp] theorem disarmIf_irq (n : Nat) : (disarmIf n s).irq = s.irq := by unfold disarmIf; split <;> rfl

@[simp] theorem disarmIf_txEn (n : Nat) : (disarmIf n s).txEn = s.txEn := by unfold disarmIf; split <;> rfl

@[simp] theorem disarmIf_rxEn (n : Nat) : (disarmIf n s).rxEn = s.rxEn := by unfold disarmIf; split <;> rfl

@[simp] theorem disarmIf_fgIn (n : Nat) : (disarmIf n s).fgIn = s.fgIn := by unfold disarmIf; split <;> rfl

@[simp] theorem disarmIf_irqIn (n : Nat) : (disarmIf n s).irqIn = s.irqIn := by unfold disarmIf; split <;> rfl

@[simp] theorem disarmIf_rspOut (n : Nat) : (disarmIf n s).rspOut = s.rspOut := by unfold disarmIf; split <;> rfl

@[simp] theorem disarmIf_hookOut (n : Nat) : (disarmIf n s).hookOut = s.hookOut := by unfold disarmIf; split <;> rfl

@[simp] theorem disarmIf_turns (n : Nat) : (disarmIf n s).turns = s.turns := by unfold disarmIf; split <;> rfl

@[simp] theorem disarmIf_tick (n : Nat) : (disarmIf n s).tick = s.tick := by unfold disarmIf; split <;> rfl

/-! ### Reading back -/

@[simp] theorem ring_tx : s.ring .tx = s.tx := rfl

@[simp] theorem ring_rx : s.ring .rx = s.rx := rfl

@[simp] theorem inFlight_fg : s.inFlight .fg = s.fg.isSome := rfl

@[simp] theorem inFlight_irq : s.inFlight .irq = s.irq.isSome := rfl

@[simp] theorem words_fg : s.words .fg = s.fgIn := rfl

@[simp] theorem words_irq : s.words .irq = s.irqIn := rfl

end Sys2Proof.Machine.State
end

