-- ==== Sys2Proof/Laws/Ops.lean ====
section
/-! SUPPORT. What each shared operation can do when it answers a next state, said once, and the induction over micro-steps packaged once:
what every micro-step keeps, every operation and every step keeps. -/

namespace Sys2Proof.Machine

/-! ### Results -/

@[simp] theorem andThen_next (s : State) (f : State → Result) : andThen (.next s) f = f s := rfl

@[simp] theorem andThen_fault (e : Fault) (f : State → Result) : andThen (.fault e) f = .fault e := rfl

@[simp] theorem andThen_refused (e : Refusal) (f : State → Result) : andThen (.refused e) f = .refused e := rfl

@[simp] theorem orUninit_some {α : Type} (a : α) (f : α → Result) : orUninit (some a) f = f a := rfl

@[simp] theorem orUninit_none {α : Type} (f : α → Result) : orUninit none f = .fault .uninit := rfl

theorem andThen_eq_next {x : Result} {f : State → Result} {t : State} :
    andThen x f = .next t ↔ ∃ s, x = .next s ∧ f s = .next t := by
  cases x <;> simp

theorem orUninit_eq_next {α : Type} {x : Option α} {f : α → Result} {t : State} :
    orUninit x f = .next t ↔ ∃ a, x = some a ∧ f a = .next t := by
  cases x <;> simp

theorem orUninit_ne_refused {α : Type} {x : Option α} {f : α → Result} {e : Refusal} (h : ∀ a, f a ≠ .refused e) :
    orUninit x f ≠ .refused e := by
  cases x <;> simp [h]

theorem andThen_ne_refused {x : Result} {f : State → Result} {e : Refusal} (hx : x ≠ .refused e) (h : ∀ a, f a ≠ .refused e) :
    andThen x f ≠ .refused e := by
  cases x <;> simp_all

/-! ### The micro-steps of PUSH and POP: an answer of each comes from a written index, and is its continuation's -/

theorem pushRead_eq_next {b : Buf} {s t : State} {k : Nat → Result} :
    pushRead b s k = .next t ↔ ∃ r, (s.ring b).readIndex = some r ∧ k r = .next t := orUninit_eq_next

theorem pushTest_eq_next {b : Buf} {r : Nat} {s t : State} {k : Bool → Result} :
    pushTest b r s k = .next t ↔
      ∃ w, (s.ring b).writeIndex = some w ∧ k (decide (counterSub s.cfg w r = s.cfg.cap b)) = .next t := orUninit_eq_next

theorem pushStore_eq_next {b : Buf} {v : Byte} {s t : State} {k : State → Result} :
    pushStore b v s k = .next t ↔
      ∃ w, (s.ring b).writeIndex = some w ∧ k (s.memWrite b (slotOf s.cfg b w) v) = .next t := orUninit_eq_next

theorem pushAdvance_eq_next {b : Buf} {s t : State} {k : State → Result} :
    pushAdvance b s k = .next t ↔
      ∃ w, (s.ring b).writeIndex = some w ∧ k (s.setWriteIndex b (counterInc s.cfg w)) = .next t := orUninit_eq_next

theorem popRead_eq_next {b : Buf} {s t : State} {k : Nat → Result} :
    popRead b s k = .next t ↔ ∃ w, (s.ring b).writeIndex = some w ∧ k w = .next t := orUninit_eq_next

theorem popCount_eq_next {b : Buf} {w : Nat} {s t : State} {k : Nat → Result} :
    popCount b w s k = .next t ↔
      ∃ r, (s.ring b).readIndex = some r ∧ k (counterSub s.cfg w r) = .next t := orUninit_eq_next

theorem popLoad_eq_next {b : Buf} {s t : State} {k : Byte → Result} :
    popLoad b s k = .next t ↔
      ∃ r v, (s.ring b).readIndex = some r ∧ s.memRead b (slotOf s.cfg b r) = some v ∧ k v = .next t := by
  unfold popLoad
  rw [orUninit_eq_next]
  simp only [orUninit_eq_next]
  constructor
  · rintro ⟨r, hr, v, hv, h⟩; exact ⟨r, v, hr, hv, h⟩
  · rintro ⟨r, v, hr, hv, h⟩; exact ⟨r, hr, v, hv, h⟩

theorem popAdvance_eq_next {b : Buf} {s t : State} {k : State → Result} :
    popAdvance b s k = .next t ↔
      ∃ r, (s.ring b).readIndex = some r ∧ k (s.setReadIndex b (counterInc s.cfg r)) = .next t := orUninit_eq_next

theorem readArmed_eq_next {s t : State} {k : Bool → Result} :
    readArmed s k = .next t ↔ ∃ a, s.txArmed = some a ∧ k a = .next t := orUninit_eq_next

/-! ### States without meaning (10_state.md R23) -/

/-- What answers a next state does so in a state with a meaning. -/
theorem ifInBounds_eq_next {s t : State} {x : Result} : ifInBounds s x = .next t ↔ s.inBounds = true ∧ x = .next t := by
  cases h : s.inBounds <;> simp [ifInBounds, h]

theorem ifInBounds_of {s : State} (h : s.inBounds = true) (x : Result) : ifInBounds s x = x := by simp [ifInBounds, h]

theorem ifInBounds_broken {s : State} (h : s.inBounds = false) (x : Result) : ifInBounds s x = .refused .brokenOccupancy := by
  simp [ifInBounds, h]

/-- Whether a state has a meaning depends on the parameters, the rings and FG's position. -/
theorem inBounds_congr {s t : State} (hc : t.cfg = s.cfg) (h1 : t.tx = s.tx) (h2 : t.rx = s.rx) (h3 : t.fg = s.fg) :
    t.inBounds = s.inBounds := by
  simp [State.inBounds, State.inInit, State.within, State.occ, State.ring, hc, h1, h2, h3]

@[simp] theorem dropTurn_inBounds (s : State) : s.dropTurn.inBounds = s.inBounds := inBounds_congr (by simp) (by simp) (by simp) (by simp)

@[simp] theorem setWords_inBounds (s : State) (p : Port) (ws : List Word) : (s.setWords p ws).inBounds = s.inBounds := by
  cases p <;> rfl

/-- Outside an INIT a state has a meaning exactly when both occupancies are within the capacities. -/
theorem inBounds_iff {s : State} (h : s.inInit = false) : s.inBounds = true ↔ s.within .tx = true ∧ s.within .rx = true := by
  simp [State.inBounds, h]

theorem within_iff {s : State} {b : Buf} : s.within b = true ↔ ∀ n, s.occ b = some n → n ≤ s.cfg.cap b := by
  cases h : s.occ b <;> simp [State.within, h]

theorem within_congr {s t : State} {b : Buf} (hc : t.cfg = s.cfg) (h1 : (t.ring b).writeIndex = (s.ring b).writeIndex)
    (h2 : (t.ring b).readIndex = (s.ring b).readIndex) : t.within b = s.within b := by
  simp [State.within, State.occ, hc, h1, h2]

theorem within_of_rings {s t : State} {b : Buf} (hc : t.cfg = s.cfg) (h1 : t.tx = s.tx) (h2 : t.rx = s.rx) :
    t.within b = s.within b :=
  within_congr hc (by cases b <;> simp [State.ring, h1, h2]) (by cases b <;> simp [State.ring, h1, h2])

/-! The updates that leave both buffers' counters leave what is within bounds. -/

@[simp] theorem setFg_within {b : Buf} (s : State) (q : Option FgPos) : (s.setFg q).within b = s.within b :=
  within_of_rings (by simp) (by simp) (by simp)

@[simp] theorem setArmed_within {b : Buf} (s : State) (v : Bool) : (s.setArmed v).within b = s.within b :=
  within_of_rings (by simp) (by simp) (by simp)

@[simp] theorem setHooks_within {b : Buf} (s : State) (m : BitVec 3) : (s.setHooks m).within b = s.within b :=
  within_of_rings (by simp) (by simp) (by simp)

@[simp] theorem setIrqPos_within {b : Buf} (s : State) (q : IrqPos) : (s.setIrqPos q).within b = s.within b :=
  within_of_rings (by simp) (by simp) (by simp)

@[simp] theorem enterCallback_within {b : Buf} (s : State) (q : IrqPos) : (s.enterCallback q).within b = s.within b :=
  within_of_rings (by simp) (by simp) (by simp)

@[simp] theorem endCallback_within {b : Buf} (s : State) : s.endCallback.within b = s.within b :=
  within_of_rings (by simp) (by simp) (by simp)

@[simp] theorem markRaced_within {b : Buf} (s : State) : s.markRaced.within b = s.within b :=
  within_of_rings (by simp) (by simp) (by simp)

@[simp] theorem emit_within {b : Buf} (s : State) (e : HookEvent) : (s.emit e).within b = s.within b := by
  cases e <;> exact within_of_rings (by simp) (by simp) (by simp)

@[simp] theorem emitIfBound_within {b : Buf} (s : State) (e : HookEvent) : (s.emitIfBound e).within b = s.within b := by
  unfold State.emitIfBound; split <;> simp

@[simp] theorem respond_within {b : Buf} (s : State) (st : Status) (v : Nat) : (s.respond st v).within b = s.within b :=
  within_of_rings (by simp) (by simp) (by simp)

@[simp] theorem returns_within {b : Buf} (s : State) (st : Status) (v : Nat) : (s.returns st v).within b = s.within b :=
  within_of_rings (by simp) (by simp) (by simp)

@[simp] theorem memWrite_within {b : Buf} (s : State) (b' : Buf) (a : Nat) (v : Byte) : (s.memWrite b' a v).within b = s.within b := by
  cases b' <;> exact within_congr (by simp) (by cases b <;> simp [State.ring]) (by cases b <;> simp [State.ring])

@[simp] theorem setWords_within {b : Buf} (s : State) (p : Port) (ws : List Word) : (s.setWords p ws).within b = s.within b := by
  cases p <;> exact within_of_rings (by simp) (by simp) (by simp)

@[simp] theorem dropTurn_within {b : Buf} (s : State) : s.dropTurn.within b = s.within b :=
  within_of_rings (by simp) (by simp) (by simp)

@[simp] theorem armIf_within {b : Buf} (s : State) (a : Bool) : (armIf a s).within b = s.within b :=
  within_of_rings (by simp) (by simp) (by simp)

@[simp] theorem kickIf_within {b : Buf} (s : State) (a : Bool) : (kickIf a s).within b = s.within b :=
  within_of_rings (by simp) (by simp) (by simp)

@[simp] theorem disarmIf_within {b : Buf} (s : State) (a : Nat) : (disarmIf a s).within b = s.within b :=
  within_of_rings (by simp) (by simp) (by simp)

/-! The counters of one buffer are not the other's. -/

@[simp] theorem setWriteIndex_tx_within_rx (s : State) (v : Nat) : (s.setWriteIndex .tx v).within .rx = s.within .rx := rfl

@[simp] theorem setReadIndex_tx_within_rx (s : State) (v : Nat) : (s.setReadIndex .tx v).within .rx = s.within .rx := rfl

@[simp] theorem setWriteIndex_rx_within_tx (s : State) (v : Nat) : (s.setWriteIndex .rx v).within .tx = s.within .tx := rfl

@[simp] theorem setReadIndex_rx_within_tx (s : State) (v : Nat) : (s.setReadIndex .rx v).within .tx = s.within .tx := rfl

/-- Both buffers within bounds give a state a meaning. -/
theorem inBounds_of_within {s : State} (h1 : s.within .tx = true) (h2 : s.within .rx = true) : s.inBounds = true := by
  simp [State.inBounds, h1, h2]

/-- An operation's first position is not inside an INIT, so to start one in an idle context changes nothing here. -/
theorem startAt_inBounds {i : Instr} {s : State} (h : s.inFlight i.port = false) : (startAt i s).inBounds = s.inBounds := by
  cases i <;> simp_all [State.inFlight, Instr.port, startAt, State.inBounds, State.inInit, State.setFg, State.enterCallback] <;> rfl

/-! ### One micro-step -/

/-- A micro-step in a state with a meaning. -/
theorem microStep_of {p : Port} {s : State} (hb : s.inBounds = true) : microStep p s =
    match p with
    | .fg => (match s.fg with | some q => fgMicro q s | none => .next s)
    | .irq => (match s.irq with | some c => irqMicro c.pos s | none => .next s) := ifInBounds_of hb _

theorem microStep_fg {s : State} {q : FgPos} (hb : s.inBounds = true) (h : s.fg = some q) : microStep .fg s = fgMicro q s := by
  simp [microStep_of hb, h]

theorem microStep_irq {s : State} {c : IrqRun} (hb : s.inBounds = true) (h : s.irq = some c) :
    microStep .irq s = irqMicro c.pos s := by
  simp [microStep_of hb, h]

theorem microStep_broken {p : Port} {s : State} (h : s.inBounds = false) : microStep p s = .refused .brokenOccupancy :=
  ifInBounds_broken h _

/-- A callback's micro-step that answers a next state met no race. -/
theorem irqMicro_eq_next {q : IrqPos} {s t : State} :
    irqMicro q s = .next t ↔
      s.initRaced = false ∧ (match q with
        | .txrdy x => txrdyMicro x s
        | .rxbyte x => rxbyteMicro x s) = .next t := by
  unfold irqMicro
  split <;> cases q <;> simp_all

/-! ### From micro-steps to operations and steps -/

variable {P : State → Prop}

/-- A whole run whose first micro-step answers goes on from there, unless FG is held at E1. -/
theorem runMicro_succ {p : Port} {n : Nat} {s t : State} (hf : s.inFlight p = true) (h : microStep p s = .next t) :
    runMicro p (n + 1) s = if p = .fg ∧ t.heldAtE1 = true then .next t else runMicro p n t := by
  simp [runMicro, hf, h]

/-- A whole run faults where its first micro-step does. -/
theorem runMicro_fault {p : Port} {n : Nat} {s : State} {e : Fault} (hf : s.inFlight p = true)
    (h : microStep p s = .fault e) : runMicro p (n + 1) s = .fault e := by
  simp [runMicro, hf, h]

/-- Nothing in flight, nothing to run. -/
theorem runMicro_idle {p : Port} {n : Nat} {s : State} (hf : s.inFlight p = false) : runMicro p n s = .next s := by
  cases n <;> simp [runMicro, hf]

theorem runMicro_keeps {p : Port} (h : ∀ s t, P s → microStep p s = .next t → P t) :
    ∀ (n : Nat) {s t : State}, P s → runMicro p n s = .next t → P t
  | 0, s, t, hs, e => by
    simp only [runMicro, Host.Outcome.next.injEq] at e
    exact e ▸ hs
  | n + 1, s, t, hs, e => by
    simp only [runMicro] at e
    split at e
    · obtain ⟨u, hu, e⟩ := andThen_eq_next.mp e
      have hP := h s u hs hu
      split at e
      · simp only [Host.Outcome.next.injEq] at e
        exact e ▸ hP
      · exact runMicro_keeps h n hP e
    · simp only [Host.Outcome.next.injEq] at e
      exact e ▸ hs

/-- Every meaning is the operation issued and run whole. -/
theorem exec_eq_issue (i : Instr) (s : State) : exec i s = issue i s := by cases i <;> rfl

theorem startAt_inFlight (i : Instr) (s : State) : (startAt i s).inFlight i.port = true := by cases i <;> rfl

/-- An operation that answers a next state has got past its first micro-step. -/
theorem exec_first {i : Instr} {s t : State} (e : exec i s = .next t) :
    s.inFlight i.port = false ∧ (∃ u, microStep i.port (startAt i s) = .next u) ∧
      runMicro i.port maxMicro (startAt i s) = .next t := by
  rw [exec_eq_issue, issue] at e
  split at e
  · exact absurd e (by simp)
  · next hf =>
    refine ⟨by simpa using hf, ?_, e⟩
    simp only [maxMicro, runMicro, startAt_inFlight, if_true] at e
    obtain ⟨u, hu, -⟩ := andThen_eq_next.mp e
    exact ⟨u, hu⟩

theorem exec_keeps {i : Instr}
    (hstart : ∀ s t, s.inFlight i.port = false → P s → microStep i.port (startAt i s) = .next t → P (startAt i s))
    (h : ∀ s t, P s → microStep i.port s = .next t → P t) {s t : State} (hs : P s) (e : exec i s = .next t) : P t := by
  obtain ⟨hf, ⟨u, hu⟩, e⟩ := exec_first e
  exact runMicro_keeps h _ (hstart s u hf hs hu) e

/-- A step either goes on with the operation in flight, or takes a word: illegal, or an operation run whole or by its first micro-step; or it has
nothing to do. -/
theorem step_cases {s t : State} (e : step s = .next t) :
    s.inBounds = true ∧ ∃ p, p = s.mover s.turnOf ∧
      ((s.inFlight p = true ∧ (microStep p s.dropTurn = .next t ∨ runMicro p maxMicro s.dropTurn = .next t)) ∨
        (s.inFlight p = false ∧ s.words p = [] ∧ t = s.dropTurn) ∨
        (∃ w ws er, s.inFlight p = false ∧ s.words p = w :: ws ∧ decodeOn p w = .error er ∧ p = .fg ∧
          t = (s.dropTurn.setWords p ws).respond .illegal 0) ∨
        (∃ w ws i, s.inFlight p = false ∧ s.words p = w :: ws ∧ decodeOn p w = .ok i ∧
          (exec i (s.dropTurn.setWords p ws) = .next t ∨
            issueMicro i (s.dropTurn.setWords p ws) = .next t))) := by
  have hd : ∀ p, s.dropTurn.inFlight p = s.inFlight p := by intro p; cases p <;> simp
  have hw : ∀ p, s.dropTurn.words p = s.words p := by intro p; cases p <;> simp
  obtain ⟨hb, e⟩ := ifInBounds_eq_next.mp e
  refine ⟨hb, _, rfl, ?_⟩
  simp only [turn, hd] at e
  generalize s.mover s.turnOf = p at *
  split at e
  · next hf =>
    refine .inl ⟨hf, ?_⟩
    cases hg : s.turnOf.grain <;> simp only [hg, goOn] at e
    · exact .inl e
    · exact .inr e
  · next hf =>
    have hf : s.inFlight p = false := by simpa using hf
    simp only [takeWord, hw] at e
    split at e
    · next hl => exact .inr (.inl ⟨hf, hl, by simpa using e.symm⟩)
    · next w ws hl =>
      split at e
      · next er hdec =>
        refine .inr (.inr (.inl ⟨w, ws, er, hf, hl, hdec, ?_⟩))
        cases p <;> simp [illegal] at e
        exact ⟨rfl, e.symm⟩
      · next i hdec =>
        refine .inr (.inr (.inr ⟨w, ws, i, hf, hl, hdec, ?_⟩))
        cases hg : s.turnOf.grain <;> simp only [hg, accept] at e
        · exact .inr e
        · exact .inl e

/-- What taking turns and words, answering an illegal word, starting an operation (whose first micro-step answers) and every micro-step keep,
every step keeps. -/
theorem step_keeps (hdrop : ∀ s, P s → P s.dropTurn) (hwords : ∀ s p ws, P s → P (s.setWords p ws))
    (hresp : ∀ s, P s → P (s.respond .illegal 0))
    (hstart : ∀ s i t, s.inFlight i.port = false → P s → microStep i.port (startAt i s) = .next t → P (startAt i s))
    (h : ∀ p s t, P s → microStep p s = .next t → P t) {s t : State} (hs : P s) (e : step s = .next t) : P t := by
  obtain ⟨-, p, -, hc⟩ := step_cases e
  have hP := hdrop s hs
  rcases hc with ⟨-, e | e⟩ | ⟨-, -, rfl⟩ | ⟨w, ws, er, -, -, -, -, rfl⟩ | ⟨w, ws, i, -, -, -, e | e⟩
  · exact h p _ _ hP e
  · exact runMicro_keeps (h p) _ hP e
  · exact hP
  · exact hresp _ (hwords _ _ _ hP)
  · exact exec_keeps (fun s t => hstart s i t) (h i.port) (hwords _ _ _ hP) e
  · unfold issueMicro at e
    split at e
    · exact absurd e (by simp)
    · next hf => exact h _ _ _ (hstart _ i _ (by simpa using hf) (hwords _ _ _ hP) e) e

end Sys2Proof.Machine
end

