-- ==== Sys2Proof/Laws/Micro.lean ====
section
/-! SUPPORT. Every labelled micro-step, said once: what it needs to answer a next state, and the state it answers. A proof about all micro-steps
is a case split over the positions and one of these per case. -/

namespace Sys2Proof.Machine

variable {s t : State}

theorem init_i1_next : fgMicro (.init .i1) s = .next t ↔
    t = (s.setWriteIndex .tx 0).markRaced.setFg (some (.init .i2)) := by
  simp [fgMicro, initMicro, @eq_comm _ t]

theorem init_i2_next : fgMicro (.init .i2) s = .next t ↔
    t = (s.setReadIndex .tx 0).setFg (some (.init .i3)) := by
  simp [fgMicro, initMicro, @eq_comm _ t]

theorem init_i3_next : fgMicro (.init .i3) s = .next t ↔
    t = (s.setWriteIndex .rx 0).setFg (some (.init .i4)) := by
  simp [fgMicro, initMicro, @eq_comm _ t]

theorem init_i4_next : fgMicro (.init .i4) s = .next t ↔
    t = (s.setReadIndex .rx 0).setFg (some (.init .i5)) := by
  simp [fgMicro, initMicro, @eq_comm _ t]

theorem init_i5_next : fgMicro (.init .i5) s = .next t ↔
    t = (s.setArmed false).setFg (some (.init .i6)) := by
  simp [fgMicro, initMicro, @eq_comm _ t]

theorem init_i6_next : fgMicro (.init .i6) s = .next t ↔
    t = (s.emitIfBound (.setRxEn true)).setFg (some (.init .i7)) := by
  simp [fgMicro, initMicro, @eq_comm _ t]

theorem init_i7_next : fgMicro (.init .i7) s = .next t ↔
    t = s.returns .ok 0 := by
  simp [fgMicro, initMicro, @eq_comm _ t]

theorem bind_h1_next {m : BitVec 3} : fgMicro (.bind (.h1 m)) s = .next t ↔
    t = (s.setHooks m).setFg (some (.bind .h2)) := by
  simp [fgMicro, bindMicro, @eq_comm _ t]

theorem bind_h2_next : fgMicro (.bind .h2) s = .next t ↔
    t = s.returns .ok 0 := by
  simp [fgMicro, bindMicro, @eq_comm _ t]

theorem enq_e1_next {b : Byte} : fgMicro (.enq (.e1 b)) s = .next t ↔
    ∃ r, s.tx.readIndex = some r ∧ t = s.setFg (some (.enq (.e2 b r))) := by
  simp [fgMicro, enqMicro, pushRead_eq_next, @eq_comm _ t]

theorem enq_e2_next {b : Byte} {r : Nat} : fgMicro (.enq (.e2 b r)) s = .next t ↔
    ∃ w, s.tx.writeIndex = some w ∧
      t = if counterSub s.cfg w r = s.cfg.cap .tx then enqFull b s else s.setFg (some (.enq (.e3 b))) := by
  simp [fgMicro, enqMicro, pushTest_eq_next, @eq_comm _ t]

theorem enq_e3_next {b : Byte} : fgMicro (.enq (.e3 b)) s = .next t ↔
    ∃ w, s.tx.writeIndex = some w ∧ t = (s.memWrite .tx (slotOf s.cfg .tx w) b).setFg (some (.enq (.e4 b))) := by
  simp [fgMicro, enqMicro, pushStore_eq_next, @eq_comm _ t]

theorem enq_e4_next {b : Byte} : fgMicro (.enq (.e4 b)) s = .next t ↔
    ∃ w, s.tx.writeIndex = some w ∧ t = (s.setWriteIndex .tx (counterInc s.cfg w)).setFg (some (.enq .e5)) := by
  simp [fgMicro, enqMicro, pushAdvance_eq_next, @eq_comm _ t]

theorem enq_e5_next : fgMicro (.enq .e5) s = .next t ↔
    ∃ a, s.txArmed = some a ∧ t = s.setFg (some (.enq (.e6 a))) := by
  simp [fgMicro, enqMicro, readArmed_eq_next, @eq_comm _ t]

theorem enq_e6_next {a : Bool} : fgMicro (.enq (.e6 a)) s = .next t ↔
    t = (armIf a s).setFg (some (.enq (.e7 a))) := by
  simp [fgMicro, enqMicro, @eq_comm _ t]

theorem enq_e7_next {a : Bool} : fgMicro (.enq (.e7 a)) s = .next t ↔
    t = (kickIf a s).setFg (some (.enq .e8)) := by
  simp [fgMicro, enqMicro, @eq_comm _ t]

theorem enq_e8_next : fgMicro (.enq .e8) s = .next t ↔
    t = s.returns .ok 0 := by
  simp [fgMicro, enqMicro, @eq_comm _ t]

theorem deq_q1_next : fgMicro (.deq .q1) s = .next t ↔
    ∃ w, s.rx.writeIndex = some w ∧ t = s.setFg (some (.deq (.q2 w))) := by
  simp [fgMicro, deqMicro, popRead_eq_next, @eq_comm _ t]

theorem deq_q2_next {w : Nat} : fgMicro (.deq (.q2 w)) s = .next t ↔
    ∃ r, s.rx.readIndex = some r ∧
      t = if counterSub s.cfg w r = 0 then s.returns .bufferEmpty 0 else s.setFg (some (.deq .q3)) := by
  simp [fgMicro, deqMicro, popCount_eq_next, @eq_comm _ t]

theorem deq_q3_next : fgMicro (.deq .q3) s = .next t ↔
    ∃ r v, s.rx.readIndex = some r ∧ s.memRead .rx (slotOf s.cfg .rx r) = some v ∧ t = s.setFg (some (.deq (.q4 v))) := by
  simp [fgMicro, deqMicro, popLoad_eq_next, @eq_comm _ t]

theorem deq_q4_next {v : Byte} : fgMicro (.deq (.q4 v)) s = .next t ↔
    ∃ r, s.rx.readIndex = some r ∧ t = (s.setReadIndex .rx (counterInc s.cfg r)).setFg (some (.deq (.q5 v))) := by
  simp [fgMicro, deqMicro, popAdvance_eq_next, @eq_comm _ t]

theorem deq_q5_next {v : Byte} : fgMicro (.deq (.q5 v)) s = .next t ↔
    t = s.returns .ok v.toNat := by
  simp [fgMicro, deqMicro, byteValue, @eq_comm _ t]

theorem rxcnt_n1_next : fgMicro (.rxcnt .n1) s = .next t ↔
    ∃ w, s.rx.writeIndex = some w ∧ t = s.setFg (some (.rxcnt (.n2 w))) := by
  simp [fgMicro, rxcntMicro, popRead_eq_next, @eq_comm _ t]

theorem rxcnt_n2_next {w : Nat} : fgMicro (.rxcnt (.n2 w)) s = .next t ↔
    ∃ r, s.rx.readIndex = some r ∧ t = s.returns .ok (counterSub s.cfg w r) := by
  simp [fgMicro, rxcntMicro, popCount_eq_next, @eq_comm _ t]

theorem txrdy_t1_next : irqMicro (.txrdy .t1) s = .next t ↔
    s.initRaced = false ∧ s.bound .sendByte = true ∧ t = s.setIrqPos (.txrdy .t2) := by
  by_cases h : s.bound .sendByte <;> simp [irqMicro_eq_next, txrdyMicro, h, @eq_comm _ t]

theorem txrdy_t2_next : irqMicro (.txrdy .t2) s = .next t ↔
    s.initRaced = false ∧ ∃ w, s.tx.writeIndex = some w ∧ t = s.setIrqPos (.txrdy (.t3 w)) := by
  simp [irqMicro_eq_next, txrdyMicro, popRead_eq_next, @eq_comm _ t]

theorem txrdy_t3_next {w : Nat} : irqMicro (.txrdy (.t3 w)) s = .next t ↔
    s.initRaced = false ∧ ∃ r, s.tx.readIndex = some r ∧
      t = s.setIrqPos (.txrdy (if counterSub s.cfg w r = 0 then .t9 else .t4)) := by
  simp [irqMicro_eq_next, txrdyMicro, popCount_eq_next, @eq_comm _ t]

theorem txrdy_t4_next : irqMicro (.txrdy .t4) s = .next t ↔
    s.initRaced = false ∧ ∃ r v, s.tx.readIndex = some r ∧ s.memRead .tx (slotOf s.cfg .tx r) = some v ∧
      t = s.setIrqPos (.txrdy (.t5 v)) := by
  simp [irqMicro_eq_next, txrdyMicro, popLoad_eq_next, @eq_comm _ t]

theorem txrdy_t5_next {v : Byte} : irqMicro (.txrdy (.t5 v)) s = .next t ↔
    s.initRaced = false ∧ t = (s.emit (.sendByte v)).setIrqPos (.txrdy (.t6 v)) := by
  simp [irqMicro_eq_next, txrdyMicro, @eq_comm _ t]

theorem txrdy_t6_next {v : Byte} : irqMicro (.txrdy (.t6 v)) s = .next t ↔
    s.initRaced = false ∧ ∃ r, s.tx.readIndex = some r ∧
      t = (s.setReadIndex .tx (counterInc s.cfg r)).setIrqPos (.txrdy .t7) := by
  simp [irqMicro_eq_next, txrdyMicro, popAdvance_eq_next, @eq_comm _ t]

theorem txrdy_t7_next : irqMicro (.txrdy .t7) s = .next t ↔
    s.initRaced = false ∧ ∃ w, s.tx.writeIndex = some w ∧ t = s.setIrqPos (.txrdy (.t8 w)) := by
  simp [irqMicro_eq_next, txrdyMicro, popRead_eq_next, @eq_comm _ t]

theorem txrdy_t8_next {w : Nat} : irqMicro (.txrdy (.t8 w)) s = .next t ↔
    s.initRaced = false ∧ ∃ r, s.tx.readIndex = some r ∧ t = (disarmIf (counterSub s.cfg w r) s).endCallback := by
  simp [irqMicro_eq_next, txrdyMicro, popCount_eq_next, @eq_comm _ t]

theorem txrdy_t9_next : irqMicro (.txrdy .t9) s = .next t ↔
    s.initRaced = false ∧ t = (s.emitIfBound (.setTxEn false)).endCallback := by
  simp [irqMicro_eq_next, txrdyMicro, @eq_comm _ t]

theorem rxbyte_b1_next {b : Byte} : irqMicro (.rxbyte (.b1 b)) s = .next t ↔
    s.initRaced = false ∧ ∃ r, s.rx.readIndex = some r ∧ t = s.setIrqPos (.rxbyte (.b2 b r)) := by
  simp [irqMicro_eq_next, rxbyteMicro, pushRead_eq_next, @eq_comm _ t]

theorem rxbyte_b2_next {b : Byte} {r : Nat} : irqMicro (.rxbyte (.b2 b r)) s = .next t ↔
    s.initRaced = false ∧ ∃ w, s.rx.writeIndex = some w ∧
      t = if counterSub s.cfg w r = s.cfg.cap .rx then s.endCallback else s.setIrqPos (.rxbyte (.b3 b)) := by
  simp [irqMicro_eq_next, rxbyteMicro, pushTest_eq_next, @eq_comm _ t]

theorem rxbyte_b3_next {b : Byte} : irqMicro (.rxbyte (.b3 b)) s = .next t ↔
    s.initRaced = false ∧ ∃ w, s.rx.writeIndex = some w ∧
      t = (s.memWrite .rx (slotOf s.cfg .rx w) b).setIrqPos (.rxbyte (.b4 b)) := by
  simp [irqMicro_eq_next, rxbyteMicro, pushStore_eq_next, @eq_comm _ t]

theorem rxbyte_b4_next {b : Byte} : irqMicro (.rxbyte (.b4 b)) s = .next t ↔
    s.initRaced = false ∧ ∃ w, s.rx.writeIndex = some w ∧
      t = (s.setWriteIndex .rx (counterInc s.cfg w)).endCallback := by
  simp [irqMicro_eq_next, rxbyteMicro, pushAdvance_eq_next, @eq_comm _ t]

/-- A micro-step happens in a state with a meaning; it is one of the operation in flight, or there is none and nothing happens. -/
theorem microStep_eq_next {p : Port} : microStep p s = .next t ↔
    s.inBounds = true ∧ ((p = .fg ∧ ((∃ q, s.fg = some q ∧ fgMicro q s = .next t) ∨ (s.fg = none ∧ t = s))) ∨
      (p = .irq ∧ ((∃ c, s.irq = some c ∧ irqMicro c.pos s = .next t) ∨ (s.irq = none ∧ t = s)))) := by
  refine ifInBounds_eq_next.trans (and_congr_right fun _ => ?_)
  cases p
  · cases s.fg <;> simp [@eq_comm _ t]
  · cases s.irq <;> simp [@eq_comm _ t]

end Sys2Proof.Machine
end

