-- ==== Sys2Proof/Laws/PerInstr.lean ====
section
/-! SUPPORT. One lemma per operation: its row of the opcode map (30_encoding.md R72) and its word agree. -/

namespace Sys2Proof.Laws.TableRow

/-- The operation's row is one of the opcode map's; its word selects it; the row's port is the operation's, it is what `op[3]` of the
word says (30_encoding.md R71), and the operation is well formed there. -/
def Statement (i : Instr) : Prop :=
  i.row ∈ opTable ∧ i.row.selects (encode i) = true ∧ i.row.port = i.port ∧
    Machine.portOfWord (encode i) = i.port ∧ i.wellFormedOn i.port = true

theorem init : Statement .init := by unfold Statement; decide

theorem bind (m : BitVec 3) : Statement (.bind m) := by
  revert m; unfold Statement; decide

theorem enq (b : Byte) : Statement (.enq b) := by
  have hs : ∀ b : Byte, (Instr.enq b).row.selects (encode (.enq b)) = true := by decide
  have hp : ∀ b : Byte, Machine.portOfWord (encode (.enq b)) = .fg := by decide
  exact ⟨by simp [Instr.row, opTable], hs b, rfl, hp b, rfl⟩

theorem deq : Statement .deq := by unfold Statement; decide

theorem rxcnt : Statement .rxcnt := by unfold Statement; decide

theorem txrdy : Statement .txrdy := by unfold Statement; decide

theorem rxbyte (b : Byte) : Statement (.rxbyte b) := by
  have hs : ∀ b : Byte, (Instr.rxbyte b).row.selects (encode (.rxbyte b)) = true := by decide
  have hp : ∀ b : Byte, Machine.portOfWord (encode (.rxbyte b)) = .irq := by decide
  exact ⟨by simp [Instr.row, opTable], hs b, rfl, hp b, rfl⟩

end Sys2Proof.Laws.TableRow
end

