-- ==== Sys2Proof/Laws/Queue.lean ====
section
/-! SUPPORT. What a push, a pop and a store do to the counters' relation and to the bytes a buffer holds (40_ringbuffer.md R97, R99 to R101),
and the invariant in the form proofs use. -/

namespace Sys2Proof.Machine

variable {s t : State} {b b' : Buf} {w r : Nat} {v : Byte}

/-! ### The invariant -/

/-- A settled state, with the values of its counters and its flag named. -/
theorem settled_iff : settled s ↔ ∃ wt rt wr rr a, s.tx.writeIndex = some wt ∧ s.tx.readIndex = some rt ∧
    s.rx.writeIndex = some wr ∧ s.rx.readIndex = some rr ∧ s.txArmed = some a ∧
    countersOk s .tx wt rt ∧ countersOk s .rx wr rr ∧ fgOk s wt rt wr rr ∧ irqOk s wt rt wr rr := by
  unfold settled
  split
  · next h1 h2 h3 h4 h5 => simp [h1, h2, h3, h4, h5]
  · next h =>
    constructor
    · simp
    · rintro ⟨wt, rt, wr, rr, a, h1, h2, h3, h4, h5, -⟩
      exact h _ _ _ _ _ h1 h2 h3 h4 h5

/-- Outside an INIT the invariant says: canonical storages, and the state is fresh or settled. -/
theorem inv_iff (h : s.inInit = false) : s.Inv ↔ storageOk s .tx ∧ storageOk s .rx ∧ (fresh s ∨ settled s) := by
  simp [State.Inv, h]

/-- With the flag written, it is settled. -/
theorem Inv_settled (hi : s.Inv) (h : s.inInit = false) (ha : s.txArmed ≠ none) : settled s :=
  ((inv_iff h).mp hi).2.2.resolve_left fun c => ha c.2.2.2.2.1

/-- The invariant is about the parameters, the rings, the flag and what is in flight. -/
theorem Inv_congr (hc : t.cfg = s.cfg) (h1 : t.tx = s.tx) (h2 : t.rx = s.rx) (h3 : t.txArmed = s.txArmed)
    (h4 : t.fg = s.fg) (h5 : t.irq = s.irq) (hi : s.Inv) : t.Inv := by
  obtain ⟨cfg, tx, rx, ta, hk, fg, irq, e1, e2, a, b, c, d, f, g⟩ := s
  obtain ⟨cfg', tx', rx', ta', hk', fg', irq', e1', e2', a', b', c', d', f', g'⟩ := t
  simp only at hc h1 h2 h3 h4 h5
  subst hc h1 h2 h3 h4 h5
  exact hi

/-! ### What a store, a push and a pop keep -/

/-- The slot a producer stores to is not the one a consumer loads from, unless the buffer is empty or full
(40_ringbuffer.md R100). -/
theorem slotOf_read_ne_write (h0 : 0 < counterSub s.cfg w r)
    (hc : counterSub s.cfg w r < s.cfg.cap b) : slotOf s.cfg b r ≠ slotOf s.cfg b w := by
  rw [slotOf_write (c := s.cfg) (a := w) (b := r) b]
  intro h
  have := slotOf_add_inj (i := r) (j := 0) (k := counterSub s.cfg w r) (cap_pos s.cfg b) hc (by simpa using h)
  omega

theorem storageOk_store (i : Nat) (h : storageOk s b') : storageOk (s.memWrite b (slotOf s.cfg b i) v) b' := by
  by_cases hb : b = b'
  · subst hb
    refine ⟨?_, fun x hx => ?_⟩
    · have := Memory.write_wf (slotOf s.cfg b i) v h.1
      cases b <;> exact this
    · have hx : x ∈ (s.ring b).storage.write (slotOf s.cfg b i) v := by cases b <;> exact hx
      have hc : (s.memWrite b (slotOf s.cfg b i) v).cfg = s.cfg := by cases b <;> rfl
      rw [hc]
      rcases Memory.mem_write hx with rfl | hx
      · exact slotOf_lt _ _ _
      · exact h.2 x hx
  · cases b <;> cases b' <;> first | exact absurd rfl hb | exact h

theorem countersOk_store (a : Nat) (h : countersOk s b w r) : countersOk (s.memWrite b a v) b w r := by
  have hc : (s.memWrite b a v).cfg = s.cfg := by cases b <;> rfl
  refine ⟨hc ▸ h.1, hc ▸ h.2.1, hc ▸ h.2.2.1, fun j hj => ?_⟩
  rw [hc] at hj ⊢
  have e : (s.memWrite b a v).memRead b (slotOf s.cfg b (r + j)) =
      if slotOf s.cfg b (r + j) = a then some v else s.memRead b (slotOf s.cfg b (r + j)) := by
    cases b <;> simp [State.memRead, State.memWrite, State.ring, State.setRing, Memory.read_write]
  rw [e]
  split
  · rfl
  · exact h.2.2.2 j hj

theorem countersOk_push (h : countersOk s b w r) (hlt : counterSub s.cfg w r < s.cfg.cap b)
    (hv : s.memRead b (slotOf s.cfg b w) = some v) :
    countersOk (s.setWriteIndex b (counterInc s.cfg w)) b (counterInc s.cfg w) r := by
  obtain ⟨h1, h2, -, h4⟩ := h
  have hcap := cap_lt s.cfg b
  have hs := counterSub_inc_left (c := s.cfg) (a := w) (b := r) (by omega)
  have hc : (s.setWriteIndex b (counterInc s.cfg w)).cfg = s.cfg := by cases b <;> rfl
  have e : ∀ a, (s.setWriteIndex b (counterInc s.cfg w)).memRead b a = s.memRead b a := by intro a; cases b <;> rfl
  refine ⟨by rw [hc]; exact counterInc_lt, by rw [hc]; exact h2, ?_, fun j hj => ?_⟩
  · rw [hc, hs]; omega
  · rw [hc] at hj ⊢
    rw [hs] at hj
    rw [e]
    rcases Nat.lt_succ_iff_lt_or_eq.mp hj with hj | rfl
    · exact h4 j hj
    · rw [← slotOf_write (c := s.cfg) (a := w) (b := r) b, hv]; rfl

theorem countersOk_pop (h : countersOk s b w r) (hlt : 0 < counterSub s.cfg w r) :
    countersOk (s.setReadIndex b (counterInc s.cfg r)) b w (counterInc s.cfg r) := by
  obtain ⟨h1, h2, h3, h4⟩ := h
  have hs := counterSub_inc_right hlt
  have hc : (s.setReadIndex b (counterInc s.cfg r)).cfg = s.cfg := by cases b <;> rfl
  have e : ∀ a, (s.setReadIndex b (counterInc s.cfg r)).memRead b a = s.memRead b a := by intro a; cases b <;> rfl
  refine ⟨by rw [hc]; exact h1, by rw [hc]; exact counterInc_lt, ?_, fun j hj => ?_⟩
  · rw [hc]; omega
  · rw [hc] at hj ⊢
    rw [e, slotOf_inc_add, Nat.add_assoc, Nat.add_comm 1 j]
    exact h4 (j + 1) (by omega)

/-! ### The bytes a buffer holds -/

theorem occ_eq (h1 : (s.ring b).writeIndex = some w) (h2 : (s.ring b).readIndex = some r) :
    s.occ b = some (counterSub s.cfg w r) := by
  simp [State.occ, h1, h2]

theorem queue_eq (h1 : (s.ring b).writeIndex = some w) (h2 : (s.ring b).readIndex = some r) :
    s.queue b = (List.range (counterSub s.cfg w r)).map fun j => s.memRead b (slotOf s.cfg b (r + j)) := by
  simp [State.queue, occ_eq h1 h2, h2]

theorem queue_length (h1 : (s.ring b).writeIndex = some w) (h2 : (s.ring b).readIndex = some r) :
    (s.queue b).length = counterSub s.cfg w r := by
  simp [queue_eq h1 h2]

theorem queue_congr (h : t.ring b = s.ring b) (hc : t.cfg = s.cfg) : t.queue b = s.queue b := by
  simp [State.queue, State.occ, State.memRead, h, hc]

/-- A store to the write slot of a buffer with room is not seen in its bytes. -/
theorem queue_store (h1 : (s.ring b).writeIndex = some w) (h2 : (s.ring b).readIndex = some r)
    (hlt : counterSub s.cfg w r < s.cfg.cap b)
    (ht : t.ring b = { s.ring b with storage := (s.ring b).storage.write (slotOf s.cfg b w) v })
    (hc : t.cfg = s.cfg) : t.queue b = s.queue b := by
  rw [queue_eq h1 h2, queue_eq (s := t) (b := b) (w := w) (r := r) (by simp [ht, h1]) (by simp [ht, h2]), hc]
  apply List.map_congr_left
  intro j hj
  have hj : j < counterSub s.cfg w r := by simpa using hj
  simp only [State.memRead, ht, Memory.read_write]
  rw [if_neg]
  rw [slotOf_write (c := s.cfg) (a := w) (b := r) b]
  intro h
  have := slotOf_add_inj (by omega) hlt h
  omega

/-- Advancing the write counter appends the byte of the write slot. -/
theorem queue_push (h1 : (s.ring b).writeIndex = some w) (h2 : (s.ring b).readIndex = some r)
    (hlt : counterSub s.cfg w r < s.cfg.cap b)
    (hv : s.memRead b (slotOf s.cfg b w) = some v)
    (ht : t.ring b = { s.ring b with writeIndex := some (counterInc s.cfg w) }) (hc : t.cfg = s.cfg) :
    t.queue b = s.queue b ++ [some v] := by
  have hcap := cap_lt s.cfg b
  have hinc := counterSub_inc_left (c := s.cfg) (a := w) (b := r) (by omega)
  rw [queue_eq h1 h2, queue_eq (s := t) (b := b) (w := counterInc s.cfg w) (r := r) (by simp [ht]) (by simp [ht, h2])]
  have hm : ∀ a, t.memRead b a = s.memRead b a := by intro a; simp [State.memRead, ht]
  simp only [hc, hm, hinc, List.range_succ, List.map_append, List.map_cons, List.map_nil]
  rw [← slotOf_write (c := s.cfg) (a := w) (b := r) b, hv]

/-- Advancing the read counter takes the oldest byte. -/
theorem queue_pop (h1 : (s.ring b).writeIndex = some w) (h2 : (s.ring b).readIndex = some r)
    (hlt : 0 < counterSub s.cfg w r)
    (hv : s.memRead b (slotOf s.cfg b r) = some v)
    (ht : t.ring b = { s.ring b with readIndex := some (counterInc s.cfg r) }) (hc : t.cfg = s.cfg) :
    s.queue b = some v :: t.queue b := by
  have hinc := counterSub_inc_right hlt
  rw [queue_eq h1 h2, queue_eq (s := t) (b := b) (w := w) (r := counterInc s.cfg r) (by simp [ht, h1]) (by simp [ht])]
  have hm : ∀ a, t.memRead b a = s.memRead b a := by intro a; simp [State.memRead, ht]
  simp only [hc, hm, ← hinc, List.range_succ_eq_map, List.map_cons, List.map_map, Nat.add_zero, hv, List.cons.injEq,
    true_and]
  apply List.map_congr_left
  intro j _
  simp only [Function.comp, slotOf_inc_add]
  congr 2
  omega

/-! ### States with a meaning (10_state.md R23) -/

/-- The invariant says more than that. -/
theorem Inv_inBounds (hi : s.Inv) : s.inBounds = true := by
  by_cases h : s.inInit = true
  · simp [State.inBounds, h]
  · have h : s.inInit = false := by simpa using h
    obtain ⟨-, -, c | c⟩ := (inv_iff h).mp hi
    · obtain ⟨h1, -, h3, -⟩ := c
      simp [State.inBounds, State.within, State.occ, State.ring, h1, h3]
    · obtain ⟨wt, rt, wr, rr, a, h1, h2, h3, h4, -, k1, k2, -⟩ := settled_iff.mp c
      simp [State.inBounds, State.within, State.occ, State.ring, h1, h2, h3, h4, k1.2.2.1, k2.2.2.1]

/-- A push into a buffer that is not full keeps the occupancy within the capacity. -/
theorem within_push (h : s.within b = true) (h1 : (s.ring b).writeIndex = some w) (hne : s.occ b ≠ some (s.cfg.cap b)) :
    (s.setWriteIndex b (counterInc s.cfg w)).within b = true := by
  rw [within_iff] at h ⊢
  have hcap := cap_lt s.cfg b
  cases h2 : (s.ring b).readIndex with
  | none => intro n hn; cases b <;> simp_all [State.occ, State.setWriteIndex, State.setRing, State.ring]
  | some r =>
    have hle := h _ (occ_eq h1 h2)
    have hne : counterSub s.cfg w r ≠ s.cfg.cap b := fun e => hne (by rw [occ_eq h1 h2, e])
    intro n hn
    have hn : n = counterSub s.cfg (counterInc s.cfg w) r := by
      cases b <;> simp_all [State.occ, State.setWriteIndex, State.setRing, State.ring]
    rw [hn, counterSub_inc_left (by omega)]
    cases b <;> exact Nat.lt_of_le_of_ne hle hne

/-- A pop from a buffer that is not empty keeps it within the capacity. -/
theorem within_pop (h : s.within b = true) (h2 : (s.ring b).readIndex = some r) (hne : s.occ b ≠ some 0) :
    (s.setReadIndex b (counterInc s.cfg r)).within b = true := by
  rw [within_iff] at h ⊢
  cases h1 : (s.ring b).writeIndex with
  | none => intro n hn; cases b <;> simp_all [State.occ, State.setReadIndex, State.setRing, State.ring]
  | some w =>
    have hle := h _ (occ_eq h1 h2)
    have hpos : 0 < counterSub s.cfg w r := Nat.pos_of_ne_zero fun e => hne (by rw [occ_eq h1 h2, e])
    have hinc := counterSub_inc_right hpos
    intro n hn
    have hn : n = counterSub s.cfg w (counterInc s.cfg r) := by
      cases b <;> simp_all [State.occ, State.setReadIndex, State.setRing, State.ring]
    have : (s.setReadIndex b (counterInc s.cfg r)).cfg = s.cfg := by cases b <;> rfl
    rw [this]
    omega

end Sys2Proof.Machine
end

