-- ==== Sys2Proof/Machine/Traces.lean ====
section
/-! DEFINITION. How commands, responses, events and preemption points are written in a trace (30_encoding.md R79). No step reads any
of it. -/

namespace Sys2Proof.Machine

/-- One hexadecimal digit. -/
def hexDigit (n : BitVec 4) : String :=
  match n.toNat with
  | 0 => "0" | 1 => "1" | 2 => "2" | 3 => "3" | 4 => "4" | 5 => "5" | 6 => "6" | 7 => "7"
  | 8 => "8" | 9 => "9" | 10 => "A" | 11 => "B" | 12 => "C" | 13 => "D" | 14 => "E" | _ => "F"

/-- A byte, `0x41`. -/
def byteText (b : Byte) : String := "0x" ++ hexDigit (b.extractLsb' 4 4) ++ hexDigit (b.extractLsb' 0 4)

/-- A bit, `1`. -/
def bitText (b : Bool) : String := if b then "1" else "0"

/-- BIND's mask, `0b111`. -/
def maskText (m : BitVec 3) : String :=
  "0b" ++ bitText (m.getLsbD 2) ++ bitText (m.getLsbD 1) ++ bitText (m.getLsbD 0)

/-- BIND's mask in the names of the hooks it binds, `send|rx|tx`. -/
def maskNames (m : BitVec 3) : String :=
  String.intercalate "|"
    ((if m.getLsbD 0 then ["send"] else []) ++ (if m.getLsbD 1 then ["rx"] else []) ++ (if m.getLsbD 2 then ["tx"] else []))

/-- The mnemonic (30_encoding.md R72). -/
def mnemonicText (i : Instr) : String :=
  match i with
  | .init => "INIT"
  | .bind _ => "BIND"
  | .enq _ => "ENQ"
  | .deq => "DEQ"
  | .rxcnt => "RXCNT"
  | .txrdy => "TXRDY"
  | .rxbyte _ => "RXBYTE"

/-- The operand with the blank before it, nothing where there is none. -/
def operandText (i : Instr) : String :=
  match i with
  | .init | .deq | .rxcnt | .txrdy => ""
  | .bind m => " " ++ maskText m
  | .enq b | .rxbyte b => " " ++ byteText b

/-- The name of a port. -/
def portText (p : Port) : String :=
  match p with
  | .fg => "FG"
  | .irq => "IRQ"

/-- `FG: ENQ 0x41`. -/
def commandText (i : Instr) : String := portText i.port ++ ": " ++ mnemonicText i ++ operandText i

/-- What follows `->` for the response to an operation: a DEQ's value is a byte, an RXCNT's a decimal count, and no other response
shows one. -/
def responseText (i : Instr) (r : Response) : String :=
  match r.status with
  | .ok =>
    match i with
    | .deq => "OK " ++ byteText (BitVec.ofNat 8 r.value)
    | .rxcnt => "OK " ++ toString r.value
    | .init | .bind _ | .enq _ | .txrdy | .rxbyte _ => "OK"
  | .bufferFull => "BUFFER_FULL"
  | .bufferEmpty => "BUFFER_EMPTY"
  | .illegal => "ILLEGAL"

/-- What follows `=>` for a hook event. -/
def eventText (e : HookEvent) : String :=
  match e with
  | .sendByte v => "SEND_BYTE(" ++ byteText v ++ ")"
  | .setRxEn b => "SET_RX_EN(" ++ bitText b ++ ")"
  | .setTxEn b => "SET_TX_EN(" ++ bitText b ++ ")"

/-- The label of a foreground operation's next micro-step, at which a trace may split it. -/
def fgLabel (q : FgPos) : String :=
  match q with
  | .init .i1 => "I1" | .init .i2 => "I2" | .init .i3 => "I3" | .init .i4 => "I4" | .init .i5 => "I5" | .init .i6 => "I6"
  | .init .i7 => "I7"
  | .bind (.h1 _) => "H1" | .bind .h2 => "H2"
  | .enq (.e1 _) => "E1" | .enq (.e2 _ _) => "E2" | .enq (.e3 _) => "E3" | .enq (.e4 _) => "E4" | .enq .e5 => "E5"
  | .enq (.e6 _) => "E6" | .enq (.e7 _) => "E7" | .enq .e8 => "E8"
  | .deq .q1 => "Q1" | .deq (.q2 _) => "Q2" | .deq .q3 => "Q3" | .deq (.q4 _) => "Q4" | .deq (.q5 _) => "Q5"
  | .rxcnt .n1 => "N1" | .rxcnt (.n2 _) => "N2"

/-- The label of a callback's next micro-step. -/
def irqLabel (q : IrqPos) : String :=
  match q with
  | .txrdy .t1 => "T1" | .txrdy .t2 => "T2" | .txrdy (.t3 _) => "T3" | .txrdy .t4 => "T4" | .txrdy (.t5 _) => "T5"
  | .txrdy (.t6 _) => "T6" | .txrdy .t7 => "T7" | .txrdy (.t8 _) => "T8" | .txrdy .t9 => "T9"
  | .rxbyte (.b1 _) => "B1" | .rxbyte (.b2 _ _) => "B2" | .rxbyte (.b3 _) => "B3" | .rxbyte (.b4 _) => "B4"

end Sys2Proof.Machine
end

