-- ==== Sys2Proof/Tests/Slice0.lean ====
section
/-! SUPPORT. The model's own tests. Expected results are those of spec/95_test_vectors.md (its part and row stand in each comment) or of the
rule named there. The last part shows, for every statement of Certificates/Slice0/Obligations.lean that has hypotheses, states and operands that
meet them. -/

namespace Sys2Proof.Tests

open Sys2Proof.Machine

/-! ### Small states -/

/-- `CAP_TX = CAP_RX = 2^k`, `IDX_W = 8`. -/
def cfg8 (k : Nat) (p : SendPolicy) (c : Sched) : Config := { kTx := k, kRx := k, extra := 7 - k, policy := p, sched := c }

/-- A ring with its counters written. -/
def ring (m : Memory) (w r : Nat) : Ring := { storage := m, writeIndex := some w, readIndex := some r }

/-- A running instance, all hooks bound, `rx_en` true. -/
def live (c : Config) (tx rx : Ring) (armed en : Bool) : State :=
  { State.constructed c with tx := tx, rx := rx, txArmed := some armed, hooks := 0b111#3, txEn := en, rxEn := true }

/-- The configuration of most rows: capacities 2, non-blocking, preempt. -/
def cfgN : Config := cfg8 1 .nonblocking .preempt

/-- The same, blocking. -/
def cfgB : Config := cfg8 1 .blocking .preempt

/-- The same, interleave. -/
def cfgI : Config := cfg8 1 .nonblocking .interleave

/-- Both buffers empty, DRAINED. -/
def drained (c : Config) : State := live c (ring [] 0 0) (ring [] 0 0) false true

/-- Both buffers full, armed. -/
def full (c : Config) : State := live c (ring [(0, 0x10#8), (1, 0x20#8)] 2 0) (ring [(0, 0x31#8), (1, 0x32#8)] 2 0) true true

/-- One byte in each buffer, the counters about to overflow. -/
def edge (c : Config) : State := live c (ring [(0, 0x11#8), (1, 0x99#8)] 0 0xFF) (ring [(1, 0xA5#8)] 0 0xFF) true true

/-! ### Well-formedness and decoding -/

/-- 30_encoding.md R77(c): a callback is not well formed on the FG port, nor an FG operation on the IRQ port. -/
theorem test_wellFormed_port :
    Instr.txrdy.wellFormedOn .fg = false ∧ (Instr.rxbyte 0x41#8).wellFormedOn .fg = false ∧
      (Instr.enq 0x41#8).wellFormedOn .irq = false ∧ Instr.init.wellFormedOn .irq = false := by decide

/-- The nearest well-formed ones. -/
theorem test_wellFormed_accepts :
    Instr.txrdy.wellFormedOn .irq = true ∧ (Instr.enq 0x41#8).wellFormedOn .fg = true := by decide

/-- 2.3: one word per row of the opcode map, bit by bit. -/
theorem test_decode_rows :
    decodeTableWord 16 0b0001000000000000 = some .init ∧
      decodeTableWord 16 0b0010010100000000 = some (.bind 0b101#3) ∧
      decodeTableWord 16 0b0011000001000001 = some (.enq 0x41#8) ∧
      decodeTableWord 16 0b0100000000000000 = some .deq ∧
      decodeTableWord 16 0b0101000000000000 = some .rxcnt ∧
      decodeTableWord 16 0b1000000000000000 = some .txrdy ∧
      decodeTableWord 16 0b1001000010100101 = some (.rxbyte 0xA5#8) := by decide

/-- 2.3: the illegal words of the table's right-hand columns. -/
theorem test_decode_illegal :
    decodeTableWord 16 0x0000 = none ∧ decodeTableWord 16 0x1001 = none ∧ decodeTableWord 16 0x1100 = none ∧
      decodeTableWord 16 0x2800 = none ∧ decodeTableWord 16 0x2701 = none ∧ decodeTableWord 16 0x3141 = none ∧
      decodeTableWord 16 0x4001 = none ∧ decodeTableWord 16 0x6000 = none ∧ decodeTableWord 16 0x7000 = none ∧
      decodeTableWord 16 0xA000 = none ∧ decodeTableWord 16 0xF000 = none ∧ decodeTableWord 16 0x8001 = none ∧
      decodeTableWord 16 0x9100 = none := by decide

/-- 2.3: `BIND` and byte operands at both ends of their ranges. -/
theorem test_encode_ends :
    encode (.bind 0b000#3) = 0x2000#16 ∧ encode (.bind 0b111#3) = 0x2700#16 ∧ encode (.enq 0x00#8) = 0x3000#16 ∧
      encode (.enq 0xFF#8) = 0x30FF#16 ∧ encode (.rxbyte 0xA5#8) = 0x90A5#16 := by decide

/-- The conventions of 95: `BUFFER_FULL` is `0x100`, `BUFFER_EMPTY` `0x200`, `ILLEGAL` `0x300`, `OK 0xFF` `0x0FF`. -/
theorem test_response_words :
    (Response.word cfgN ⟨.bufferFull, 0⟩).toNat = 0x100 ∧ (Response.word cfgN ⟨.bufferEmpty, 0⟩).toNat = 0x200 ∧
      (Response.word cfgN ⟨.illegal, 0⟩).toNat = 0x300 ∧ (Response.word cfgN ⟨.ok, 0xFF⟩).toNat = 0x0FF := by decide

/-- The conventions of 95: hook words. -/
theorem test_hook_words :
    (HookEvent.sendByte 0x5A#8).word = 0x05A#10 ∧ (HookEvent.setRxEn true).word = 0x101#10 ∧
      (HookEvent.setTxEn true).word = 0x201#10 ∧ (HookEvent.setTxEn false).word = 0x200#10 := by decide

/-- 30_encoding.md R79: the lines of a trace. -/
theorem test_trace_text :
    commandText (.enq 0x41#8) = "FG: ENQ 0x41" ∧ commandText (.bind 0b110#3) = "FG: BIND 0b110" ∧
      commandText .txrdy = "IRQ: TXRDY" ∧ maskNames 0b111#3 = "send|rx|tx" ∧
      responseText .deq ⟨.ok, 0x7E⟩ = "OK 0x7E" ∧ eventText (.setTxEn true) = "SET_TX_EN(1)" := by decide

/-! ### Arithmetic and construction -/

/-- 2.1: the rows of width 8. -/
theorem test_counters_w8 :
    counterSub cfgN 0x05 0x02 = 3 ∧ counterSub cfgN 0x02 0xFE = 4 ∧ counterSub cfgN 0x00 0xFF = 1 ∧
      counterSub cfgN 0x7A 0x7A = 0 ∧ counterInc cfgN 0xFF = 0 := by decide

/-- 2.1: widths 3 and 1, the smallest legal ones for capacities 4 and 1. -/
theorem test_counters_small :
    counterSub ⟨2, 2, 0, .blocking, .preempt⟩ 1 6 = 3 ∧ counterInc ⟨2, 2, 0, .blocking, .preempt⟩ 7 = 0 ∧
      slotOf ⟨2, 2, 0, .blocking, .preempt⟩ .tx 7 = 3 ∧ counterSub ⟨0, 0, 0, .blocking, .preempt⟩ 0 1 = 1 := by decide

/-- 2.2: the refused configurations. -/
theorem test_construct_refuses :
    refusalOf (State.construct ⟨3, 4, 8, .blocking, .preempt⟩) = some .badConfig ∧
      refusalOf (State.construct ⟨4, 0, 8, .blocking, .preempt⟩) = some .badConfig ∧
      refusalOf (State.construct ⟨4, 4, 2, .blocking, .preempt⟩) = some .badConfig ∧
      refusalOf (State.construct ⟨4, 256, 8, .blocking, .preempt⟩) = some .badConfig := by decide

/-- 2.2: the nearest accepted ones. -/
theorem test_construct_accepts :
    (nextOf (State.construct ⟨4, 4, 3, .blocking, .preempt⟩)).map (fun s => (s.cfg.cap .tx, s.cfg.idxW)) = some (4, 3) ∧
      (nextOf (State.construct ⟨4, 128, 8, .blocking, .preempt⟩)).map (fun s => s.cfg.cap .rx) = some 128 := by decide

/-! ### One operation on one small state -/

/-- 2.4 F3: a second INIT loses both queues and leaves `tx_en`. -/
theorem test_init_again :
    (nextOf (exec .init (live cfgN (ring [(1, 0x22#8)] 5 3) (ring [] 9 8) true true))).map
        (fun t => (t.tx, t.rx, t.txArmed, t.txEn)) =
      some (ring [(1, 0x22#8)] 0 0, ring [] 0 0, some false, true) := by decide

/-- 2.4 F1: with no hook bound INIT emits nothing, straight after construction. -/
theorem test_init_unbound :
    (nextOf (exec .init (State.constructed cfgN))).map (fun t => (t.hookOut, t.rxEn, t.rspOut)) =
      some ([], false, [⟨.ok, 0⟩]) := by decide

/-- 2.4 F14: BIND 0b110. -/
theorem test_bind :
    (nextOf (exec (.bind 0b110#3) (drained cfgN))).map (fun t => (t.hooks, t.hookOut, t.rspOut)) =
      some (0b110#3, [], [⟨.ok, 0⟩]) := by decide

/-- 2.4 F7: ENQ through the counter's overflow: slot 1, the counter passes to 0. -/
theorem test_enq_wraps :
    (nextOf (exec (.enq 0x12#8) (live cfgN (ring [(0, 0x11#8)] 0xFF 0xFE) (ring [] 0 0) true true))).map
        (fun t => (t.tx, t.hookOut)) =
      some (ring [(0, 0x11#8), (1, 0x12#8)] 0 0xFE, []) := by decide

/-- 2.4 F8: `set_tx_enabled` unbound: armed all the same, no event. -/
theorem test_enq_unbound :
    (nextOf (exec (.enq 0x41#8) { drained cfgN with hooks := 0b011#3, txEn := false })).map
        (fun t => (t.tx.writeIndex, t.txArmed, t.txEn, t.hookOut)) =
      some (some 1, some true, false, []) := by decide

/-- 2.4 F10: a received `0xFF` is a byte, not the empty indicator. -/
theorem test_deq_ff :
    (nextOf (exec .deq (live cfgN (ring [] 0 0) (ring [(0, 0xFF#8)] 1 0) false false))).map
        (fun t => (t.rx.readIndex, t.rspOut)) =
      some (some 1, [⟨.ok, 0xFF⟩]) := by decide

/-- 2.4 F9: DEQ on an empty buffer. -/
theorem test_deq_empty :
    (nextOf (exec .deq (drained cfgN))).map (fun t => (t.rx, t.rspOut)) = some (ring [] 0 0, [⟨.bufferEmpty, 0⟩]) := by
  decide

/-- 2.4 F12: RXCNT through the counter's overflow. -/
theorem test_rxcnt_wraps :
    (nextOf (exec .rxcnt (live (cfg8 2 .nonblocking .preempt) (ring [] 0 0) (ring [] 0x01 0xFE) false false))).map
        State.rspOut = some [⟨.ok, 3⟩] := by decide

/-- 2.4 F13: RXCNT on a full buffer. -/
theorem test_rxcnt_full :
    (nextOf (exec .rxcnt (full cfgN))).map State.rspOut = some [⟨.ok, 2⟩] := by decide

/-- 2.5 I6: the drain through the counter's overflow. -/
theorem test_txrdy_drains :
    (nextOf (exec .txrdy (live cfgN (ring [(1, 0x99#8)] 0 0xFF) (ring [] 0 0) true true))).map
        (fun t => (t.tx.readIndex, t.txArmed, t.txEn, t.hookOut)) =
      some (some 0, some false, true, [.sendByte 0x99#8]) := by decide

/-- 2.5 I3: the confirm callback disables and leaves the block as it was. -/
theorem test_txrdy_confirm :
    (nextOf (exec .txrdy (drained cfgN))).map (fun t => (t.tx, t.txArmed, t.txEn, t.hookOut)) =
      some (ring [] 0 0, some false, false, [.setTxEn false]) := by decide

/-- 2.5 I12: RXBYTE through the counter's overflow. -/
theorem test_rxbyte_wraps :
    (nextOf (exec (.rxbyte 0x01#8) (live cfgN (ring [] 0 0) (ring [] 0xFF 0xFF) false false))).map State.rx =
      some (ring [(1, 0x01#8)] 0 0xFF) := by decide

/-- 2.5 I10: RXBYTE on a full buffer: the silent drop. -/
theorem test_rxbyte_drops :
    (nextOf (exec (.rxbyte 0x33#8) (full cfgN))).map (fun t => (t.rx, t.hookOut, t.rspOut)) =
      some (ring [(0, 0x31#8), (1, 0x32#8)] 2 0, [], []) := by decide

/-! ### Faults and the step -/

/-- 2.7 X1, X4, X5. -/
theorem test_faults_before_init :
    faultOf (exec (.enq 0x41#8) (State.constructed cfgN)) = some .uninit ∧
      faultOf (exec .txrdy (State.constructed cfgN)) = some .unboundSend ∧
      faultOf (exec .txrdy { State.constructed cfgN with hooks := 0b001#3 }) = some .uninit := by decide

/-- 2.7 X6: RXBYTE between I2 and I3 of an INIT. -/
theorem test_init_race :
    faultOf (exec (.rxbyte 0x01#8) { drained cfgN with fg := some (.init .i3) }) = some .initRace := by decide

/-- 30_encoding.md R77: an illegal word on the FG port is answered, on the IRQ port refused. -/
theorem test_illegal_words :
    (nextOf (step ({ drained cfgN with fgIn := [0x6000#16], turns := [⟨.fg, .whole⟩] }))).map State.rspOut =
        some [⟨.illegal, 0⟩] ∧
      refusalOf (step ({ drained cfgN with irqIn := [0x3041#16], turns := [⟨.irq, .whole⟩] })) = some .illegalWord := by
  decide

/-- 2.8, spurious full: E2 tests the copy E1 read, although a TXRDY has freed a slot since. -/
theorem test_spurious_full :
    (nextOf (step { full cfgN with
        tx := ring [(0, 0x10#8), (1, 0x20#8)] 2 1, fg := some (.enq (.e2 0x30#8 0)), turns := [⟨.fg, .micro⟩] })).map
        State.rspOut = some [⟨.bufferFull, 0⟩] := by decide

/-- 10_state.md R23: with three bytes counted in a buffer of two, nothing has a meaning: the operations of both ports, the step and a micro-step are
refused. -/
def broken : State := live cfgN (ring [(0, 0x10#8), (1, 0x20#8)] 3 0) (ring [] 0 0) true true

theorem test_broken_occupancy :
    broken.occ .tx = some 3 ∧ broken.cfg.cap .tx = 2 ∧ broken.inBounds = false ∧
      refusalOf (exec (.enq 0x30#8) broken) = some .brokenOccupancy ∧
      refusalOf (exec .txrdy broken) = some .brokenOccupancy ∧
      refusalOf (step (broken.withFetchWord 16 0x3030)) = some .brokenOccupancy ∧
      refusalOf (microStep .fg { broken with fg := some (.enq (.e4 0x30#8)) }) = some .brokenOccupancy := by decide

/-- 41_foreground.md R110: between I1 and I6 the counters are reset one after the other, and the micro-steps of INIT go on. -/
theorem test_init_passes_through :
    ({ full cfgN with tx := ring [] 0 2, fg := some (.init .i2) } : State).occ .tx = some 0xFE ∧
      (nextOf (microStep .fg { full cfgN with tx := ring [] 0 2, fg := some (.init .i2) })).map (fun t => t.tx.readIndex) =
        some (some 0) := by decide

/-- 70_reset_and_hazards.md R193: IDLE is final and "all sent" (3, P1); DRAINED, a lost arm (3, P5, ends in `(true, false, 4)`) and a held ENQ are not
final; queued bytes with the arm kept are final and not "all sent". -/
theorem test_final :
    ({ drained cfgN with txEn := false } : State).final = true ∧ ({ drained cfgN with txEn := false } : State).allSent = true ∧
      (drained cfgN).final = false ∧
      (live (cfg8 2 .nonblocking .preempt) (ring [] 6 2) (ring [] 0 0) true false).final = false ∧
      ({ full cfgB with fg := some (.enq (.e1 0x30#8)) } : State).final = false ∧
      (full cfgN).final = true ∧ (full cfgN).allSent = false := by decide

/-- The word presented is the one the next step runs, on either port. -/
theorem test_withFetchWord :
    (nextOf (step ((drained cfgN).withFetchWord 16 0x3041))).map (fun t => t.tx.writeIndex) = some (some 1) ∧
      (nextOf (step ((drained cfgN).withFetchWord 16 0x9041))).map (fun t => t.rx.writeIndex) = some (some 1) := by decide

/-! ### Witnesses: states that meet the hypotheses of the statements -/

/-- A state nothing but whose in-flight operations needs to be looked at meets the invariant. -/
theorem inv_of (s : State) (wt rt wr rr : Nat) (a : Bool)
    (h1 : s.tx.writeIndex = some wt) (h2 : s.tx.readIndex = some rt) (h3 : s.rx.writeIndex = some wr)
    (h4 : s.rx.readIndex = some rr) (h5 : s.txArmed = some a) (hf : fgOk s wt rt wr rr) (hi : irqOk s wt rt wr rr)
    (h0 : s.inInit = false := by decide)
    (k1 : storageOk s .tx := by unfold storageOk; decide) (k2 : storageOk s .rx := by unfold storageOk; decide)
    (k3 : countersOk s .tx wt rt := by unfold countersOk; decide)
    (k4 : countersOk s .rx wr rr := by unfold countersOk; decide) : s.Inv :=
  (inv_iff h0).mpr ⟨k1, k2, .inr (settled_iff.mpr ⟨wt, rt, wr, rr, a, h1, h2, h3, h4, h5, k3, k4, hf, hi⟩)⟩

theorem drained_inv : (drained cfgN).Inv := inv_of _ 0 0 0 0 false rfl rfl rfl rfl rfl trivial trivial

theorem drainedI_inv : (drained cfgI).Inv := inv_of _ 0 0 0 0 false rfl rfl rfl rfl rfl trivial trivial

theorem full_inv : (full cfgN).Inv := inv_of _ 2 0 2 0 true rfl rfl rfl rfl rfl trivial trivial

theorem edge_inv : (edge cfgN).Inv := inv_of _ 0 0xFF 0 0xFF true rfl rfl rfl rfl rfl trivial trivial

theorem witness_EncodeOfDecode : decode 0x2700#16 = .ok (.bind 0b111#3) := rfl

theorem witness_RowsSelectOperations : ⟨0x9000#16, 0xFF00#16, .irq⟩ ∈ opTable := by decide

/-- Each clause at the ends of its range. -/
theorem witness_CounterArithmetic :
    (0xFF < 2 ^ cfgN.idxW ∧ 0 < 2 ^ cfgN.idxW ∧ 0 ≤ 0xFF) ∧ (0 < 2 ^ cfgN.idxW ∧ 0xFF < 2 ^ cfgN.idxW ∧ 0 < 0xFF) ∧
      0xFE + 1 < 2 ^ cfgN.idxW := by decide

theorem witness_OccupancyExact : 300 ≤ 302 ∧ 302 ≤ 300 + cfgN.cap .tx := by decide

theorem witness_ConstructionAcceptsLegal :
    ((∃ k, 4 = 2 ^ k) ∧ (∃ k, 1 = 2 ^ k) ∧ 4 < 2 ^ 3 ∧ 1 < 2 ^ 3) ∧
      ¬((∃ k, 4 = 2 ^ k) ∧ (∃ k, 1 = 2 ^ k) ∧ 4 < 2 ^ 2 ∧ 1 < 2 ^ 2) :=
  ⟨⟨⟨2, rfl⟩, ⟨0, rfl⟩, by decide, by decide⟩, fun h => absurd h.2.2.1 (by decide)⟩

theorem witness_ConstructedState : State.reset = State.constructed Config.built := rfl

/-- FG, then IRQ, with a word to take, for a whole operation and for a micro-step. -/
theorem witness_StepRunsDecoded :
    (let s := { drained cfgN with fgIn := [0x3041#16], turns := [⟨.fg, .whole⟩] };
      s.mover s.turnOf = .fg ∧ s.inFlight .fg = false ∧ s.words .fg = [0x3041#16] ∧ s.turnOf.grain = .whole) ∧
    (let s := { drained cfgN with irqIn := [0x8000#16], turns := [⟨.irq, .micro⟩] };
      s.mover s.turnOf = .irq ∧ s.inFlight .irq = false ∧ s.words .irq = [0x8000#16] ∧ s.turnOf.grain = .micro) ∧
    decodeOn .fg 0x3041#16 = .ok (.enq 0x41#8) ∧ decodeOn .irq 0x8000#16 = .ok .txrdy :=
  ⟨by decide, by decide, rfl, rfl⟩

theorem witness_StepGoesOn :
    (let s := { drained cfgN with fg := some (.deq .q1), turns := [⟨.fg, .micro⟩] };
      s.mover s.turnOf = .fg ∧ s.inFlight .fg = true ∧ s.turnOf.grain = .micro) ∧
    (let s := { drained cfgN with irq := some ⟨.txrdy .t2, false⟩, turns := [⟨.fg, .whole⟩] };
      s.mover s.turnOf = .irq ∧ s.inFlight .irq = true ∧ s.turnOf.grain = .whole) ∧
    (let s := { drained cfgN with turns := [⟨.fg, .micro⟩] };
      s.mover s.turnOf = .fg ∧ s.inFlight .fg = false ∧ s.words .fg = [] ∧ s.inBounds = true) := by decide

theorem witness_PreemptKeepsForeground :
    let s := { full cfgN with
      fg := some (.deq .q3), irq := some ⟨.txrdy .t2, false⟩, turns := [⟨.fg, .whole⟩] }
    s.cfg.sched = .preempt ∧ s.irq.isSome = true ∧ ∃ t, step s = .next t := ⟨rfl, rfl, _, rfl⟩

theorem witness_IllegalWordOutcome :
    (let s := { drained cfgN with fgIn := [0x8000#16], turns := [⟨.fg, .whole⟩] };
      s.inBounds = true ∧ s.mover s.turnOf = .fg ∧ s.fg = none ∧ s.fgIn = [0x8000#16] ∧ decodeOn .fg 0x8000#16 = .error .wrongPort) ∧
    (let s := { drained cfgN with irqIn := [0xA000#16], turns := [⟨.irq, .whole⟩] };
      s.inBounds = true ∧ s.mover s.turnOf = .irq ∧ s.irq = none ∧ s.irqIn = [0xA000#16] ∧
        decodeOn .irq 0xA000#16 = .error .reservedOpcode) := ⟨⟨rfl, rfl, rfl, rfl, rfl⟩, rfl, rfl, rfl, rfl, rfl⟩

theorem witness_WholeIsMicroSteps :
    let s := { drained cfgN with fgIn := [0x3041#16] }
    s.inFlight .fg = false ∧ s.words .fg = [0x3041#16] ∧ decodeOn .fg 0x3041#16 = .ok (.enq 0x41#8) ∧ s.irq = none ∧
      ∃ t, exec (.enq 0x41#8) ({ s with turns := [] }.setWords .fg []) = .next t := ⟨rfl, rfl, rfl, rfl, _, rfl⟩

/-- Also for INIT and BIND: a callback may be in flight. -/
theorem witness_InitEffect :
    let s := { full cfgI with irq := some ⟨.txrdy (.t3 2), false⟩ }
    s.inBounds = true ∧ s.fg = none := by decide

theorem witness_BindEffect : (full cfgN).inBounds = true ∧ (full cfgN).fg = none := by decide

/-- The counter's last value before it overflows, on a buffer with room. -/
theorem witness_EnqQueues :
    let s := live cfgN (ring [(0, 0x11#8)] 0xFF 0xFE) (ring [] 0 0) true true
    s.inBounds = true ∧ s.fg = none ∧ s.tx.writeIndex = some 0xFF ∧ s.tx.readIndex = some 0xFE ∧ s.txArmed = some true ∧
      counterSub s.cfg 0xFF 0xFE ≠ s.cfg.cap .tx := by decide

theorem witness_EnqFull :
    (full cfgN).inBounds = true ∧ (full cfgN).fg = none ∧ (full cfgN).tx.writeIndex = some 2 ∧ (full cfgN).tx.readIndex = some 0 ∧
      counterSub (full cfgN).cfg 2 0 = (full cfgN).cfg.cap .tx ∧ (full cfgN).cfg.policy = .nonblocking ∧
      (full cfgB).inBounds = true ∧ (full cfgB).fg = none ∧ counterSub (full cfgB).cfg 2 0 = (full cfgB).cfg.cap .tx ∧
      (full cfgB).cfg.policy = .blocking := by decide

/-- The held ENQ, on the full buffer and after a TXRDY has freed a slot. -/
theorem witness_EnqHold :
    (let s := { full cfgB with fg := some (.enq (.e1 0x30#8)) };
      s.inBounds = true ∧ s.fg = some (.enq (.e1 0x30#8)) ∧ s.cfg.policy = .blocking ∧ s.tx.writeIndex = some 2 ∧ s.tx.readIndex = some 0 ∧
        counterSub s.cfg 2 0 = s.cfg.cap .tx) ∧
    (let s := { full cfgB with tx := ring [(0, 0x10#8), (1, 0x20#8)] 2 1, fg := some (.enq (.e1 0x30#8)) };
      s.inBounds = true ∧ s.fg = some (.enq (.e1 0x30#8)) ∧ s.cfg.policy = .blocking ∧ s.tx.writeIndex = some 2 ∧ s.tx.readIndex = some 1 ∧
        counterSub s.cfg 2 1 ≠ s.cfg.cap .tx) := by decide

theorem witness_DeqEffect :
    (let s := edge cfgN;
      s.inBounds = true ∧ s.fg = none ∧ s.rx.writeIndex = some 0 ∧ s.rx.readIndex = some 0xFF ∧ counterSub s.cfg 0 0xFF ≠ 0 ∧
        s.memRead .rx (slotOf s.cfg .rx 0xFF) = some 0xA5#8) ∧
    (let s := drained cfgN;
      s.inBounds = true ∧ s.fg = none ∧ s.rx.writeIndex = some 0 ∧ s.rx.readIndex = some 0 ∧ counterSub s.cfg 0 0 = 0) := by decide

theorem witness_RxcntReturns :
    (full cfgN).inBounds = true ∧ (full cfgN).fg = none ∧ (full cfgN).rx.writeIndex = some 2 ∧ (full cfgN).rx.readIndex = some 0 := by decide

theorem witness_TxrdySends :
    let s := edge cfgN
    s.inBounds = true ∧ s.irq = none ∧ s.inInit = false ∧ s.hooks.getLsbD 0 = true ∧ s.tx.writeIndex = some 0 ∧ s.tx.readIndex = some 0xFF ∧
      counterSub s.cfg 0 0xFF ≠ 0 ∧ s.memRead .tx (slotOf s.cfg .tx 0xFF) = some 0x99#8 := by decide

theorem witness_TxrdyDisables :
    let s := drained cfgN
    s.inBounds = true ∧ s.irq = none ∧ s.inInit = false ∧ s.hooks.getLsbD 0 = true ∧ s.tx.writeIndex = some 0 ∧ s.tx.readIndex = some 0 ∧
      counterSub s.cfg 0 0 = 0 := by decide

theorem witness_RxbyteEffect :
    (let s := edge cfgN;
      s.inBounds = true ∧ s.irq = none ∧ s.inInit = false ∧ s.rx.writeIndex = some 0 ∧ s.rx.readIndex = some 0xFF ∧
        counterSub s.cfg 0 0xFF ≠ s.cfg.cap .rx) ∧
    (let s := full cfgN;
      s.inBounds = true ∧ s.irq = none ∧ s.inInit = false ∧ s.rx.writeIndex = some 2 ∧ s.rx.readIndex = some 0 ∧
        counterSub s.cfg 2 0 = s.cfg.cap .rx) := by decide

theorem witness_BeforeInit :
    let s := State.constructed cfgN
    s.fg = none ∧ s.irq = none ∧ s.tx.writeIndex = none ∧ s.tx.readIndex = none ∧ s.rx.writeIndex = none ∧
      s.rx.readIndex = none := by decide

theorem witness_UnboundSendFaults :
    let s := { full cfgN with hooks := 0b110#3 }
    s.inBounds = true ∧ s.irq = none ∧ s.inInit = false ∧ s.hooks.getLsbD 0 = false := by decide

/-- Both ends of "between I1 and I6", and a callback that an INIT has overlapped. -/
theorem witness_InitRaceFaults :
    (let s := { drained cfgN with fg := some (.init .i2) };
      s.inInit = true ∧ s.irq = none) ∧
    (let s := { drained cfgI with fg := some (.init .i6), irq := some ⟨.txrdy .t2, true⟩ };
      s.inInit = true ∧ s.irq.isSome = true) ∧
    (let s := { drained cfgI with irq := some ⟨.txrdy .t2, true⟩ };
      s.inBounds = true ∧ s.irq = some ⟨.txrdy .t2, true⟩) := by decide

theorem witness_NoNesting :
    ({ drained cfgN with irq := some ⟨.txrdy .t2, false⟩ } : State).inFlight Instr.txrdy.port = true ∧
      ({ drained cfgN with fg := some (.deq .q1) } : State).inFlight Instr.init.port = true := by decide

/-- Every operation answers a next state, with both buffers full. -/
theorem witness_FrameRegisters :
    (∃ t, exec .init (full cfgN) = .next t) ∧ (∃ t, exec (.bind 0b101#3) (full cfgN) = .next t) ∧
      (∃ t, exec (.enq 0x41#8) (full cfgN) = .next t) ∧ (∃ t, exec .deq (full cfgN) = .next t) ∧
      (∃ t, exec .rxcnt (full cfgN) = .next t) ∧ (∃ t, exec .txrdy (full cfgN) = .next t) ∧
      ∃ t, exec (.rxbyte 0x41#8) (full cfgN) = .next t :=
  ⟨⟨_, rfl⟩, ⟨_, rfl⟩, ⟨_, rfl⟩, ⟨_, rfl⟩, ⟨_, rfl⟩, ⟨_, rfl⟩, _, rfl⟩

/-- The storing operations, with room and on a full buffer. -/
theorem witness_FrameSlots :
    (∃ t, exec (.enq 0x41#8) (edge cfgN) = .next t) ∧ (∃ t, exec (.rxbyte 0x41#8) (edge cfgN) = .next t) ∧
      (edge cfgN).tx.writeIndex = some 0 ∧ (edge cfgN).rx.writeIndex = some 0 ∧ 1 ≠ slotOf (edge cfgN).cfg .tx 0 ∧
      (∃ t, exec (.enq 0x41#8) (full cfgN) = .next t) ∧ (full cfgN).full .tx = true ∧
      (∃ t, exec (.rxbyte 0x41#8) (full cfgN) = .next t) ∧ (full cfgN).full .rx = true :=
  ⟨⟨_, rfl⟩, ⟨_, rfl⟩, rfl, rfl, by decide, ⟨_, rfl⟩, by decide, ⟨_, rfl⟩, by decide⟩

/-- A push and a pop micro-step, and INIT's. -/
theorem witness_CountersOnlyAdvance :
    (∃ t, microStep .fg { edge cfgN with fg := some (.enq (.e4 0x41#8)) } = .next t) ∧
      (∃ t, microStep .irq { edge cfgN with irq := some ⟨.txrdy (.t6 0x99#8), false⟩ } = .next t) ∧
      ∃ t, microStep .fg { edge cfgN with fg := some (.init .i2) } = .next t := ⟨⟨_, rfl⟩, ⟨_, rfl⟩, _, rfl⟩

/-- E6, I5, T8 and H1 do write: the hypotheses "changes" are met. -/
theorem witness_FlagWriters :
    (nextOf (microStep .fg { drained cfgN with fg := some (.enq (.e6 false)) })).map State.txArmed = some (some true) ∧
      (nextOf (microStep .fg { full cfgN with fg := some (.init .i5) })).map State.txArmed = some (some false) ∧
      (nextOf (microStep .irq { full cfgN with
        tx := ring [] 2 2, irq := some ⟨.txrdy (.t8 2), false⟩ })).map State.txArmed = some (some false) ∧
      (nextOf (microStep .fg { full cfgN with fg := some (.bind (.h1 0b001#3)) })).map State.hooks = some 0b001#3 := by
  decide

theorem witness_PreemptedKeepsItsPlace :
    let s := { edge cfgI with fg := some (.enq (.e3 0x41#8)), irq := some ⟨.txrdy .t4, false⟩ }
    (∃ t, microStep .irq s = .next t) ∧ ∃ t, microStep .fg s = .next t := ⟨⟨_, rfl⟩, _, rfl⟩

theorem witness_InvKept :
    (full cfgN).Inv ∧
      (∃ t, step ((full cfgN).withFetchWord 16 0x8000) = .next t) ∧ ((full cfgN).withFetchWord 16 0x8000).Inv :=
  ⟨full_inv, ⟨_, rfl⟩, inv_of _ 2 0 2 0 true rfl rfl rfl rfl rfl trivial trivial⟩

/-- At the full and at the empty end, and just past the full one. -/
theorem witness_OccupancyBounded :
    ((full cfgN).Inv ∧ (full cfgN).inInit = false ∧ (full cfgN).occ .tx = some 2) ∧
      ((drained cfgN).Inv ∧ (drained cfgN).inInit = false ∧ (drained cfgN).occ .rx = some 0) ∧
      broken.inInit = false ∧ broken.occ .tx = some 3 ∧ broken.cfg.cap .tx < 3 ∧ broken.inFlight Instr.deq.port = false :=
  ⟨⟨full_inv, by decide, by decide⟩, ⟨drained_inv, by decide, by decide⟩, by decide⟩

/-- ENQ past E1 while a TXRDY has popped since. -/
def staleEnq : State :=
  { full cfgN with tx := ring [(0, 0x10#8), (1, 0x20#8)] 2 1, fg := some (.enq (.e2 0x30#8 0)) }

/-- DEQ past Q1 while an RXBYTE has pushed since. -/
def staleDeq : State := { edge cfgN with fg := some (.deq (.q2 0xFF)) }

/-- RXCNT past N1 while an RXBYTE has pushed since. -/
def staleCnt : State := { edge cfgN with fg := some (.rxcnt (.n2 0xFF)) }

/-- TXRDY past T2 while an ENQ has pushed since. -/
def staleTx : State := { edge cfgI with irq := some ⟨.txrdy (.t3 0xFF), false⟩ }

/-- TXRDY past T7 while an ENQ has pushed since. -/
def staleTx8 : State := { edge cfgI with irq := some ⟨.txrdy (.t8 0xFF), false⟩ }

/-- RXBYTE past B1 while a DEQ has popped since. -/
def staleRx : State := { edge cfgI with irq := some ⟨.rxbyte (.b2 0x41#8 0xFE), false⟩ }

theorem witness_StaleReadsErrOneWay :
    (staleEnq.Inv ∧ staleEnq.inInit = false ∧ staleEnq.txArmed ≠ none ∧ staleEnq.occ .tx = some 1) ∧
      (staleDeq.Inv ∧ staleDeq.inInit = false ∧ staleDeq.txArmed ≠ none ∧ staleDeq.occ .rx = some 1) ∧
      (staleCnt.Inv ∧ staleCnt.inInit = false ∧ staleCnt.txArmed ≠ none ∧ staleCnt.occ .rx = some 1) ∧
      (staleTx.Inv ∧ staleTx.inInit = false ∧ staleTx.txArmed ≠ none ∧ staleTx.occ .tx = some 1) ∧
      (staleTx8.Inv ∧ staleTx8.inInit = false ∧ staleTx8.txArmed ≠ none ∧ staleTx8.occ .tx = some 1) ∧
      staleRx.Inv ∧ staleRx.inInit = false ∧ staleRx.txArmed ≠ none ∧ staleRx.occ .rx = some 1 :=
  ⟨⟨inv_of _ 2 1 2 0 true rfl rfl rfl rfl rfl
      (show producerOk staleEnq .tx 2 1 0 by unfold producerOk; decide) trivial, by decide⟩,
    ⟨inv_of _ 0 0xFF 0 0xFF true rfl rfl rfl rfl rfl
      (show consumerOk staleDeq 0 0xFF 0xFF by unfold consumerOk; decide) trivial, by decide⟩,
    ⟨inv_of _ 0 0xFF 0 0xFF true rfl rfl rfl rfl rfl
      (show consumerOk staleCnt 0 0xFF 0xFF by unfold consumerOk; decide) trivial, by decide⟩,
    ⟨inv_of _ 0 0xFF 0 0xFF true rfl rfl rfl rfl rfl trivial
      (show consumerOk staleTx 0 0xFF 0xFF by unfold consumerOk; decide), by decide⟩,
    ⟨inv_of _ 0 0xFF 0 0xFF true rfl rfl rfl rfl rfl trivial
      (show consumerOk staleTx8 0 0xFF 0xFF by unfold consumerOk; decide), by decide⟩,
    inv_of _ 0 0xFF 0 0xFF true rfl rfl rfl rfl rfl trivial
      (show producerOk staleRx .rx 0 0xFF 0xFE by unfold producerOk; decide), by decide⟩

theorem witness_StorageCanonical :
    (full cfgN).tx.storage.wf ∧ (full cfgN).rx.storage.wf ∧
      ∃ t, step ((full cfgN).withFetchWord 16 0x4000) = .next t := ⟨by decide, by decide, _, rfl⟩

/-- For ParametersFixed and EmittedWords too. -/
theorem witness_EnablesFollowEvents :
    let s := ({ State.constructed cfgN with hooks := 0b111#3 } : State).withFetchWord 16 0x1000
    s.enablesFollow ∧ ∃ t, step s = .next t := ⟨⟨rfl, rfl⟩, _, rfl⟩

theorem witness_ParametersFixed : ∃ t, step ((full cfgN).withFetchWord 16 0x1000) = .next t := ⟨_, rfl⟩

theorem witness_EmittedWords : ∃ t, step ((drained cfgN).withFetchWord 16 0x3041) = .next t := ⟨_, rfl⟩

theorem witness_ResponseWords :
    (⟨.ok, 0xFF⟩ : Response).value < 2 ^ max 8 cfgN.idxW ∧
      (∀ r ∈ (full cfgN).rspOut, r.value < 2 ^ max 8 (full cfgN).cfg.idxW) ∧
      ∃ t, step ((full cfgN).withFetchWord 16 0x5000) = .next t := ⟨by decide, by decide, _, rfl⟩

/-- At E4 with the buffer empty and at Q4 with one byte left. -/
def atE4 : State := { drained cfgN with tx := ring [(0, 0x41#8)] 0 0, fg := some (.enq (.e4 0x41#8)) }

/-- At Q4. -/
def atQ4 : State := { edge cfgN with fg := some (.deq (.q4 0xA5#8)) }

theorem witness_ForegroundQueues :
    (atE4.Inv ∧ (∀ p, FgPos.enq (.e4 0x41#8) ≠ .init p) ∧ ∃ t, microStep .fg atE4 = .next t) ∧
      atQ4.Inv ∧ (∀ p, FgPos.deq (.q4 0xA5#8) ≠ .init p) ∧ ∃ t, microStep .fg atQ4 = .next t :=
  ⟨⟨inv_of _ 0 0 0 0 false rfl rfl rfl rfl rfl ⟨by decide, by decide⟩ trivial, nofun, _, rfl⟩,
    inv_of _ 0 0xFF 0 0xFF true rfl rfl rfl rfl rfl ⟨by decide, by decide⟩ trivial, nofun, _, rfl⟩

/-- At T5, T6 and B4. -/
def atT5 : State := { edge cfgN with irq := some ⟨.txrdy (.t5 0x99#8), false⟩ }

/-- At T6. -/
def atT6 : State := { edge cfgN with irq := some ⟨.txrdy (.t6 0x99#8), false⟩ }

/-- At B4. -/
def atB4 : State := { drained cfgN with rx := ring [(0, 0x41#8)] 0 0, irq := some ⟨.rxbyte (.b4 0x41#8), false⟩ }

theorem witness_CallbackQueues :
    (atT5.Inv ∧ ∃ t, microStep .irq atT5 = .next t) ∧ (atT6.Inv ∧ ∃ t, microStep .irq atT6 = .next t) ∧
      atB4.Inv ∧ ∃ t, microStep .irq atB4 = .next t :=
  ⟨⟨inv_of _ 0 0xFF 0 0xFF true rfl rfl rfl rfl rfl trivial ⟨by decide, by decide⟩, _, rfl⟩,
    ⟨inv_of _ 0 0xFF 0 0xFF true rfl rfl rfl rfl rfl trivial ⟨by decide, by decide⟩, _, rfl⟩,
    inv_of _ 0 0 0 0 false rfl rfl rfl rfl rfl trivial ⟨by decide, by decide⟩, _, rfl⟩

/-- Just as many bytes as fit. -/
theorem witness_EnqFills :
    (edge cfgN).Inv ∧ (edge cfgN).fg = none ∧ (edge cfgN).txArmed ≠ none ∧
      ((edge cfgN).queue .tx).length + [0x41#8].length ≤ (edge cfgN).cfg.cap .tx :=
  ⟨edge_inv, rfl, by decide, by decide⟩

/-- A full buffer and an empty one. -/
theorem witness_BurstThenDisable :
    ((full cfgN).Inv ∧ (full cfgN).fg = none ∧ (full cfgN).irq = none ∧ (full cfgN).txArmed ≠ none ∧
      (full cfgN).hooks.getLsbD 0 = true ∧ (full cfgN).hooks.getLsbD 2 = true ∧
      (full cfgN).queue .tx = [0x10#8, 0x20#8].map some) ∧
    (drained cfgN).Inv ∧ (drained cfgN).fg = none ∧ (drained cfgN).irq = none ∧ (drained cfgN).txArmed ≠ none ∧
      (drained cfgN).hooks.getLsbD 0 = true ∧ (drained cfgN).hooks.getLsbD 2 = true ∧ (drained cfgN).queue .tx = [] :=
  ⟨⟨full_inv, by decide⟩, drained_inv, by decide⟩

theorem witness_ReceiveKeepsWhatFits :
    (edge cfgN).Inv ∧ (edge cfgN).inInit = false ∧ (edge cfgN).irq = none ∧ (edge cfgN).txArmed ≠ none :=
  ⟨edge_inv, by decide⟩

theorem witness_DeqDrains :
    (full cfgN).Inv ∧ (full cfgN).fg = none ∧ (full cfgN).txArmed ≠ none ∧
      (full cfgN).queue .rx = [0x31#8, 0x32#8].map some := ⟨full_inv, by decide⟩

theorem witness_CallbacksCommute :
    (∃ t, exec .txrdy (edge cfgN) = .next t) ∧ ∃ u, exec (.rxbyte 0x41#8) (edge cfgN) = .next u := ⟨⟨_, rfl⟩, _, rfl⟩

theorem witness_DirectionsIndependent :
    (Instr.enq 0x41#8 = .txrdy ∨ (∃ b, Instr.enq 0x41#8 = .enq b) ∨ ∃ m, Instr.enq 0x41#8 = .bind m) ∧
      (Instr.rxbyte 0x41#8 = .deq ∨ Instr.rxbyte 0x41#8 = .rxcnt ∨ (∃ b, Instr.rxbyte 0x41#8 = .rxbyte b) ∨
        ∃ m, Instr.rxbyte 0x41#8 = .bind m) ∧ (full cfgI).inBounds = true ∧ (full cfgI).fg = none ∧
      ({ full cfgI with rx := ring [] 1 0 } : State).inBounds = true ∧
      ({ full cfgI with tx := ring [] 1 0, txArmed := none } : State).inBounds = true :=
  ⟨.inr (.inl ⟨_, rfl⟩), .inr (.inr (.inl ⟨_, rfl⟩)), by decide⟩

/-- The held ENQ's way back to E1, and an operation's last micro-step. -/
theorem witness_ForegroundBounded :
    (∃ t, microStep .fg { full cfgB with fg := some (.enq (.e2 0x30#8 0)) } = .next t) ∧
      (∃ t, microStep .fg { full cfgB with fg := some (.rxcnt (.n2 2)) } = .next t) ∧
      ∃ t, microStep .irq { full cfgB with irq := some ⟨.txrdy .t1, false⟩ } = .next t := ⟨⟨_, rfl⟩, ⟨_, rfl⟩, _, rfl⟩

theorem witness_CallbacksBounded :
    (∃ t, microStep .fg { full cfgI with fg := some (.deq .q1), irq := some ⟨.txrdy .t2, false⟩ } = .next t) ∧
      ({ full cfgB with irq := some ⟨.txrdy (.t8 2), false⟩ } : State).inBounds = true ∧
      (∃ t, microStep .irq { full cfgB with irq := some ⟨.txrdy (.t8 2), false⟩ } = .next t) ∧
      ∃ t, microStep .irq { full cfgB with irq := some ⟨.rxbyte (.b1 0x41#8), false⟩ } = .next t :=
  ⟨⟨_, rfl⟩, rfl, ⟨_, rfl⟩, _, rfl⟩

/-- The four cases: full (which has bytes), empty (which has room); and INIT's. -/
theorem witness_TransmitMachine :
    ((full cfgN).Inv ∧ (full cfgN).fg = none ∧ (full cfgN).irq = none ∧ (full cfgN).hooks.getLsbD 0 = true ∧
      (full cfgN).hooks.getLsbD 2 = true ∧ (full cfgN).triple = some ⟨true, true, 2⟩ ∧ 2 = (full cfgN).cfg.cap .tx ∧ 0 < 2) ∧
    (drained cfgN).Inv ∧ (drained cfgN).fg = none ∧ (drained cfgN).irq = none ∧ (drained cfgN).hooks.getLsbD 0 = true ∧
      (drained cfgN).hooks.getLsbD 2 = true ∧ (drained cfgN).triple = some ⟨false, true, 0⟩ ∧
      0 < (drained cfgN).cfg.cap .tx ∧ (drained cfgN).inBounds = true :=
  ⟨⟨full_inv, by decide⟩, drained_inv, by decide⟩

theorem witness_NamedStatesClosed :
    (drained cfgN).Inv ∧ (drained cfgN).fg = none ∧ (drained cfgN).irq = none ∧ (drained cfgN).hooks = 0b111#3 ∧
      (∀ m, Instr.enq 0x41#8 ≠ .bind m) ∧ (drained cfgN).triple = some ⟨false, true, 0⟩ ∧
      (⟨false, true, 0⟩ : Triple).name ∈ [TxName.idle, .armedOrDraining, .drained] ∧
      ∃ t, exec (.enq 0x41#8) (drained cfgN) = .next t :=
  ⟨drained_inv, rfl, rfl, rfl, nofun, by decide, by decide, _, rfl⟩

/-- The schedule and the words of 3, P5, steps 5 to 8. -/
def raceState : State :=
  { drained cfgN with
    fgIn := [encode (.enq 0x44#8)]
    irqIn := [encode .txrdy, encode .txrdy]
    turns := List.replicate 4 ⟨.fg, .micro⟩ ++ [⟨.irq, .whole⟩, ⟨.fg, .whole⟩, ⟨.irq, .whole⟩] ++ [] }

theorem witness_LostArmRace :
    raceState.Inv ∧ raceState.fg = none ∧ raceState.irq = none ∧ raceState.hooks = 0b111#3 ∧
      raceState.triple = some ⟨false, true, 0⟩ ∧ raceState.fgIn = encode (.enq 0x44#8) :: [] ∧
      raceState.irqIn = encode .txrdy :: encode .txrdy :: [] ∧
      raceState.turns = List.replicate 4 ⟨.fg, .micro⟩ ++ [⟨.irq, .whole⟩, ⟨.fg, .whole⟩, ⟨.irq, .whole⟩] ++ [] :=
  ⟨inv_of _ 0 0 0 0 false rfl rfl rfl rfl rfl trivial trivial, rfl, rfl, rfl, by decide, rfl, rfl, rfl⟩

/-- ENQ that queues, ENQ on a full buffer. -/
theorem witness_LostArmPersists :
    (let s := { drained cfgN with txArmed := some true, txEn := false };
      Instr.enq 0x45#8 ≠ .init ∧ Instr.enq 0x45#8 ≠ .txrdy ∧ s.triple = some ⟨true, false, 0⟩ ∧
        ∃ t, exec (.enq 0x45#8) s = .next t) ∧
    (let s := { full cfgN with txEn := false };
      s.triple = some ⟨true, false, 2⟩ ∧ ∃ t, exec (.enq 0x49#8) s = .next t) :=
  ⟨⟨nofun, nofun, by decide, _, rfl⟩, by decide, _, rfl⟩

/-- The schedule of 70_reset_and_hazards.md R194. -/
def splitState : State :=
  { drained cfgI with
    fgIn := [encode (.enq 0x44#8)]
    irqIn := [encode .txrdy]
    turns := List.replicate 3 ⟨.irq, .micro⟩ ++ [⟨.fg, .whole⟩, ⟨.irq, .micro⟩] ++ [] }

theorem witness_InterleaveLosesArm :
    splitState.Inv ∧ splitState.fg = none ∧ splitState.irq = none ∧ splitState.cfg.sched = .interleave ∧
      splitState.hooks = 0b111#3 ∧ splitState.triple = some ⟨false, true, 0⟩ ∧
      splitState.fgIn = encode (.enq 0x44#8) :: [] ∧ splitState.irqIn = encode .txrdy :: [] ∧
      splitState.turns = List.replicate 3 ⟨.irq, .micro⟩ ++ [⟨.fg, .whole⟩, ⟨.irq, .micro⟩] ++ [] :=
  ⟨inv_of _ 0 0 0 0 false rfl rfl rfl rfl rfl trivial trivial, rfl, rfl, rfl, rfl, by decide, rfl, rfl, rfl⟩

end Sys2Proof.Tests
end

section
/-! SUPPORT. The rules the statements of 00_scope.md need: what a micro-step leaves unchanged, what a state without meaning does to
operations and steps, and which agent moves. -/

namespace Sys2Proof.Machine

variable {s t u : State} {p : Port} {ts : List Turn}

/-! ### What a micro-step leaves unchanged -/

/-- What FG's micro-steps leave as it is: the parameters, the words, the schedule, and where a callback in flight stands
(00_scope.md R4; INIT may mark the callback, log 8). -/
structure FgKeeps (s t : State) : Prop where
  cfg : t.cfg = s.cfg
  irqPos : t.irq.map IrqRun.pos = s.irq.map IrqRun.pos
  fgIn : t.fgIn = s.fgIn
  irqIn : t.irqIn = s.irqIn
  turns : t.turns = s.turns
  tick : t.tick = s.tick

/-- What a callback's micro-steps leave as it is: the parameters, the hooks, FG's operation, the words, the responses and the
schedule (00_scope.md R4, 60_exceptions.md R158). -/
structure IrqKeeps (s t : State) : Prop where
  cfg : t.cfg = s.cfg
  hooks : t.hooks = s.hooks
  fg : t.fg = s.fg
  fgIn : t.fgIn = s.fgIn
  irqIn : t.irqIn = s.irqIn
  rspOut : t.rspOut = s.rspOut
  turns : t.turns = s.turns
  tick : t.tick = s.tick

theorem IrqKeeps.refl (s : State) : IrqKeeps s s := ⟨rfl, rfl, rfl, rfl, rfl, rfl, rfl, rfl⟩

theorem IrqKeeps.trans (h : IrqKeeps s t) (h' : IrqKeeps t u) : IrqKeeps s u :=
  ⟨h'.cfg.trans h.cfg, h'.hooks.trans h.hooks, h'.fg.trans h.fg, h'.fgIn.trans h.fgIn, h'.irqIn.trans h.irqIn,
    h'.rspOut.trans h.rspOut, h'.turns.trans h.turns, h'.tick.trans h.tick⟩

theorem enqFull_keeps (b : Byte) (s : State) : FgKeeps s (enqFull b s) := by
  unfold enqFull
  split <;> constructor <;> simp

/-- Each of FG's labelled micro-steps is one update of the rings, the flag, the hooks or the events, and a new position. -/
theorem fgMicro_keeps {q : FgPos} (h : fgMicro q s = .next t) : FgKeeps s t := by
  rcases q with q | q | q | q | q
  case init =>
    cases q
    case i1 => obtain rfl := init_i1_next.mp h; constructor <;> simp [Function.comp_def]
    case i2 => obtain rfl := init_i2_next.mp h; constructor <;> simp
    case i3 => obtain rfl := init_i3_next.mp h; constructor <;> simp
    case i4 => obtain rfl := init_i4_next.mp h; constructor <;> simp
    case i5 => obtain rfl := init_i5_next.mp h; constructor <;> simp
    case i6 => obtain rfl := init_i6_next.mp h; constructor <;> simp
    case i7 => obtain rfl := init_i7_next.mp h; constructor <;> simp
  case bind =>
    cases q
    case h1 => obtain rfl := bind_h1_next.mp h; constructor <;> simp
    case h2 => obtain rfl := bind_h2_next.mp h; constructor <;> simp
  case enq =>
    cases q
    case e1 => obtain ⟨r, -, rfl⟩ := enq_e1_next.mp h; constructor <;> simp
    case e2 =>
      obtain ⟨w, -, rfl⟩ := enq_e2_next.mp h
      split
      · exact enqFull_keeps _ s
      · constructor <;> simp
    case e3 => obtain ⟨w, -, rfl⟩ := enq_e3_next.mp h; constructor <;> simp
    case e4 => obtain ⟨w, -, rfl⟩ := enq_e4_next.mp h; constructor <;> simp
    case e5 => obtain ⟨a, -, rfl⟩ := enq_e5_next.mp h; constructor <;> simp
    case e6 => obtain rfl := enq_e6_next.mp h; constructor <;> simp
    case e7 => obtain rfl := enq_e7_next.mp h; constructor <;> simp
    case e8 => obtain rfl := enq_e8_next.mp h; constructor <;> simp
  case deq =>
    cases q
    case q1 => obtain ⟨w, -, rfl⟩ := deq_q1_next.mp h; constructor <;> simp
    case q2 => obtain ⟨r, -, rfl⟩ := deq_q2_next.mp h; split <;> constructor <;> simp
    case q3 => obtain ⟨r, v, -, -, rfl⟩ := deq_q3_next.mp h; constructor <;> simp
    case q4 => obtain ⟨r, -, rfl⟩ := deq_q4_next.mp h; constructor <;> simp
    case q5 => obtain rfl := deq_q5_next.mp h; constructor <;> simp
  case rxcnt =>
    cases q
    case n1 => obtain ⟨w, -, rfl⟩ := rxcnt_n1_next.mp h; constructor <;> simp
    case n2 => obtain ⟨r, -, rfl⟩ := rxcnt_n2_next.mp h; constructor <;> simp

/-- Each of a callback's labelled micro-steps is one update of the rings, the flag or the events, and a new position. -/
theorem irqMicro_keeps {q : IrqPos} (h : irqMicro q s = .next t) : IrqKeeps s t := by
  rcases q with q | q
  case txrdy =>
    cases q
    case t1 => obtain ⟨-, -, rfl⟩ := txrdy_t1_next.mp h; constructor <;> simp
    case t2 => obtain ⟨-, w, -, rfl⟩ := txrdy_t2_next.mp h; constructor <;> simp
    case t3 => obtain ⟨-, r, -, rfl⟩ := txrdy_t3_next.mp h; constructor <;> simp
    case t4 => obtain ⟨-, r, v, -, -, rfl⟩ := txrdy_t4_next.mp h; constructor <;> simp
    case t5 => obtain ⟨-, rfl⟩ := txrdy_t5_next.mp h; constructor <;> simp
    case t6 => obtain ⟨-, r, -, rfl⟩ := txrdy_t6_next.mp h; constructor <;> simp
    case t7 => obtain ⟨-, w, -, rfl⟩ := txrdy_t7_next.mp h; constructor <;> simp
    case t8 => obtain ⟨-, r, -, rfl⟩ := txrdy_t8_next.mp h; constructor <;> simp
    case t9 => obtain ⟨-, rfl⟩ := txrdy_t9_next.mp h; constructor <;> simp
  case rxbyte =>
    cases q
    case b1 => obtain ⟨-, r, -, rfl⟩ := rxbyte_b1_next.mp h; constructor <;> simp
    case b2 => obtain ⟨-, w, -, rfl⟩ := rxbyte_b2_next.mp h; split <;> constructor <;> simp
    case b3 => obtain ⟨-, w, -, rfl⟩ := rxbyte_b3_next.mp h; constructor <;> simp
    case b4 => obtain ⟨-, w, -, rfl⟩ := rxbyte_b4_next.mp h; constructor <;> simp

theorem microStep_fg_keeps (h : microStep .fg s = .next t) : FgKeeps s t := by
  obtain ⟨-, ⟨-, ⟨q, -, h⟩ | ⟨-, rfl⟩⟩ | ⟨h, -⟩⟩ := microStep_eq_next.mp h
  · exact fgMicro_keeps h
  · constructor <;> rfl
  · cases h

theorem microStep_irq_keeps (h : microStep .irq s = .next t) : IrqKeeps s t := by
  obtain ⟨-, ⟨h, -⟩ | ⟨-, ⟨c, -, h⟩ | ⟨-, rfl⟩⟩⟩ := microStep_eq_next.mp h
  · cases h
  · exact irqMicro_keeps h
  · constructor <;> rfl

theorem microStep_cfg (h : microStep p s = .next t) : t.cfg = s.cfg := by
  cases p
  · exact (microStep_fg_keeps h).cfg
  · exact (microStep_irq_keeps h).cfg

theorem microStep_turns (h : microStep p s = .next t) : t.turns = s.turns := by
  cases p
  · exact (microStep_fg_keeps h).turns
  · exact (microStep_irq_keeps h).turns

@[simp] theorem startAt_cfg (i : Instr) (s : State) : (startAt i s).cfg = s.cfg := by cases i <;> rfl

@[simp] theorem startAt_turns (i : Instr) (s : State) : (startAt i s).turns = s.turns := by cases i <;> rfl

@[simp] theorem setWords_cfg (s : State) (p : Port) (ws : List Word) : (s.setWords p ws).cfg = s.cfg := by cases p <;> rfl

@[simp] theorem setWords_irq (s : State) (p : Port) (ws : List Word) : (s.setWords p ws).irq = s.irq := by cases p <;> rfl

@[simp] theorem setWords_turns (s : State) (p : Port) (ws : List Word) : (s.setWords p ws).turns = s.turns := by cases p <;> rfl

/-- An operation run whole leaves the schedule. -/
theorem exec_turns {i : Instr} (h : exec i s = .next t) : t.turns = s.turns :=
  exec_keeps (P := fun u => u.turns = s.turns) (fun u _ _ hu _ => (startAt_turns i u).trans hu)
    (fun _ _ hu h => (microStep_turns h).trans hu) rfl h

/-! ### States without meaning -/

theorem runMicro_broken {n : Nat} (hf : s.inFlight p = true) (h : s.inBounds = false) :
    runMicro p (n + 1) s = .refused .brokenOccupancy := by
  simp [runMicro, hf, microStep_broken h]

/-- The step's own test of a state's meaning is the one its first micro-step makes. -/
theorem ifInBounds_microStep (h : u.inBounds = s.inBounds) : ifInBounds s (microStep p u) = microStep p u := by
  cases hb : s.inBounds
  · rw [ifInBounds_broken hb, microStep_broken (h.trans hb)]
  · exact ifInBounds_of hb _

theorem ifInBounds_runMicro {n : Nat} (hf : u.inFlight p = true) (h : u.inBounds = s.inBounds) :
    ifInBounds s (runMicro p (n + 1) u) = runMicro p (n + 1) u := by
  cases hb : s.inBounds
  · rw [ifInBounds_broken hb, runMicro_broken hf (h.trans hb)]
  · exact ifInBounds_of hb _

/-! ### What a step is, by what is in flight and what waits -/

@[simp] theorem dropTurn_inFlight (s : State) (p : Port) : s.dropTurn.inFlight p = s.inFlight p := by cases p <;> simp

@[simp] theorem dropTurn_words (s : State) (p : Port) : s.dropTurn.words p = s.words p := by cases p <;> simp

@[simp] theorem setWords_inFlight (s : State) (p q : Port) (ws : List Word) :
    (s.setWords p ws).inFlight q = s.inFlight q := by
  cases p <;> cases q <;> rfl

/-- A word that spells an operation on a port spells one of that port (30_encoding.md R77(c)). -/
theorem port_of_decodeOn {w : Word} {i : Instr} (h : decodeOn p w = .ok i) : i.port = p := by
  unfold decodeOn at h
  split at h
  · cases h
  · split at h
    · next hw => cases h; simpa [Instr.wellFormedOn] using hw
    · cases h

theorem exec_of_idle {i : Instr} (h : s.inFlight i.port = false) : exec i s = runMicro i.port maxMicro (startAt i s) := by
  simp [exec_eq_issue, issue, h]

theorem issueMicro_of_idle {i : Instr} (h : s.inFlight i.port = false) : issueMicro i s = microStep i.port (startAt i s) := by
  simp [issueMicro, h]

theorem step_of_inFlight (hm : s.mover s.turnOf = p) (hf : s.inFlight p = true) :
    step s = ifInBounds s (goOn p s.turnOf.grain s.dropTurn) := by
  simp [step, takeTurn, turn, hm, hf]

theorem step_of_idle (hm : s.mover s.turnOf = p) (hf : s.inFlight p = false) :
    step s = ifInBounds s (takeWord p s.turnOf.grain s.dropTurn) := by
  simp [step, takeTurn, turn, hm, hf]

theorem takeWord_of_decodes {g : Grain} {w : Word} {ws : List Word} {i : Instr} (hw : s.words p = w :: ws)
    (hd : decodeOn p w = .ok i) : takeWord p g s = accept g i (s.setWords p ws) := by
  simp [takeWord, hw, hd]

/-! ### Who moves -/

/-- Under `SCHED = preempt` a callback in flight moves (00_scope.md R7). -/
theorem mover_of_preempt {x : Turn} (hs : s.cfg.sched = .preempt) (hi : s.irq.isSome = true) : s.mover x = .irq := by
  obtain ⟨c, hc⟩ := Option.isSome_iff_exists.mp hi
  simp [State.mover, hc, hs]

/-- Who moves depends on the parameters and on whether a callback is in flight. -/
theorem mover_congr {x : Turn} (hc : t.cfg = s.cfg) (hi : t.irq.isSome = s.irq.isSome) : t.mover x = s.mover x := by
  cases h : s.irq <;> cases h' : t.irq <;> simp_all [State.mover]

/-- An IRQ turn is IRQ's. -/
theorem mover_irq {g : Grain} : s.mover ⟨.irq, g⟩ = .irq := by
  unfold State.mover
  split
  · rfl
  · split <;> rfl

/-- An FG turn is FG's where no callback in flight preempts it (00_scope.md R7). -/
theorem mover_fg {g : Grain} (h : s.irq = none ∨ s.cfg.sched = .interleave) : s.mover ⟨.fg, g⟩ = .fg := by
  unfold State.mover
  rcases h with h | h <;> simp only [h]
  split <;> rfl

/-! ### Steps at either grain -/

theorem step_micro_inFlight (hm : s.mover s.turnOf = p) (hf : s.inFlight p = true) (hg : s.turnOf.grain = .micro) :
    step s = microStep p s.dropTurn := by
  rw [step_of_inFlight hm hf, hg]
  exact ifInBounds_microStep (dropTurn_inBounds s)

theorem step_whole_inFlight (hm : s.mover s.turnOf = p) (hf : s.inFlight p = true) (hg : s.turnOf.grain = .whole) :
    step s = runMicro p maxMicro s.dropTurn := by
  rw [step_of_inFlight hm hf, hg]
  exact ifInBounds_runMicro (by simpa using hf) (dropTurn_inBounds s)

/-- An operation put in flight in an idle context has the meaning the state before the turn has. -/
theorem startAt_dropTurn_inBounds {i : Instr} {ws : List Word} (hf : s.inFlight i.port = false) :
    (startAt i (s.dropTurn.setWords i.port ws)).inBounds = s.inBounds := by
  rw [startAt_inBounds (by simpa using hf), setWords_inBounds, dropTurn_inBounds]

section
variable {w : Word} {ws : List Word} {i : Instr} (hm : s.mover s.turnOf = p) (hf : s.inFlight p = false)
  (hw : s.words p = w :: ws) (hd : decodeOn p w = .ok i)
include hm hf hw hd

theorem step_of_decodes :
    step s = ifInBounds s (accept s.turnOf.grain i (s.dropTurn.setWords p ws)) := by
  rw [step_of_idle hm hf, takeWord_of_decodes (by simpa using hw) hd]

theorem step_micro_decoded (hg : s.turnOf.grain = .micro) :
    step s = microStep p (startAt i (s.dropTurn.setWords p ws)) := by
  rw [step_of_decodes hm hf hw hd, hg]
  obtain rfl := port_of_decodeOn hd
  rw [accept, issueMicro_of_idle (by simpa using hf)]
  exact ifInBounds_microStep (startAt_dropTurn_inBounds hf)

theorem step_whole_decoded (hg : s.turnOf.grain = .whole) : step s = exec i (s.dropTurn.setWords p ws) := by
  rw [step_of_decodes hm hf hw hd, hg]
  obtain rfl := port_of_decodeOn hd
  rw [accept, exec_of_idle (by simpa using hf)]
  exact ifInBounds_runMicro (startAt_inFlight i _) (startAt_dropTurn_inBounds hf)

end

theorem step_of_nothing (hm : s.mover s.turnOf = p) (hf : s.inFlight p = false) (hw : s.words p = [])
    (hb : s.inBounds = true) : step s = .next s.dropTurn := by
  rw [step_of_idle hm hf, ifInBounds_of hb]
  simp [takeWord, hw]

end Sys2Proof.Machine

open Sys2Proof Sys2Proof.Machine

/-- Settles O11, by the turn's grain; in a state without meaning both sides are refused alike. -/
theorem stepRunsDecoded : Obligations.StepRunsDecoded := by
  unfold Obligations.StepRunsDecoded
  intro s p w ws i hm hf hw hd
  exact ⟨step_whole_decoded hm hf hw hd, step_micro_decoded hm hf hw hd⟩

/-- Settles O12, by what the agent has in flight and the turn's grain. -/
theorem stepGoesOn : Obligations.StepGoesOn := by
  unfold Obligations.StepGoesOn
  intro s p hm
  exact ⟨step_micro_inFlight hm, step_whole_inFlight hm, step_of_nothing hm⟩

end

section
/-! SUPPORT. No micro-step reads the schedule, so a whole operation is its micro-steps taken one turn at a time
(00_scope.md R7, 42_interrupt.md R133; log 6). -/

namespace Sys2Proof.Machine

variable {s t : State} {p : Port} {ts : List Turn}

/-- The same state with another schedule to come. -/
def State.withTurns (s : State) (ts : List Turn) : State := { s with turns := ts }

theorem withTurns_emitIfBound (s : State) (ts : List Turn) (e : HookEvent) :
    (s.emitIfBound e).withTurns ts = (s.withTurns ts).emitIfBound e := by
  cases e <;> exact apply_ite (fun x => State.withTurns x ts) _ _ _

theorem withTurns_enqFull (s : State) (ts : List Turn) (b : Byte) :
    (enqFull b s).withTurns ts = enqFull b (s.withTurns ts) := by
  cases h : s.cfg.policy <;> simp [enqFull, State.withTurns, h] <;> rfl

theorem withTurns_armIf (s : State) (ts : List Turn) (a : Bool) :
    (armIf a s).withTurns ts = armIf a (s.withTurns ts) := by
  cases a <;> rfl

theorem withTurns_kickIf (s : State) (ts : List Turn) (a : Bool) :
    (kickIf a s).withTurns ts = kickIf a (s.withTurns ts) := by
  cases a
  · exact withTurns_emitIfBound s ts _
  · rfl

theorem withTurns_disarmIf (s : State) (ts : List Turn) (n : Nat) :
    (disarmIf n s).withTurns ts = disarmIf n (s.withTurns ts) := by
  cases n <;> rfl

/-- With another schedule each of FG's labelled micro-steps reads the same values and makes the same update. -/
theorem fgMicro_withTurns {q : FgPos} (h : fgMicro q s = .next t) :
    fgMicro q (s.withTurns ts) = .next (t.withTurns ts) := by
  rcases q with q | q | q | q | q
  case init =>
    cases q
    case i1 => obtain rfl := init_i1_next.mp h; rfl
    case i2 => obtain rfl := init_i2_next.mp h; rfl
    case i3 => obtain rfl := init_i3_next.mp h; rfl
    case i4 => obtain rfl := init_i4_next.mp h; rfl
    case i5 => obtain rfl := init_i5_next.mp h; rfl
    case i6 =>
      obtain rfl := init_i6_next.mp h
      exact init_i6_next.mpr (congrArg (State.setFg · _) (withTurns_emitIfBound s ts _))
    case i7 => obtain rfl := init_i7_next.mp h; rfl
  case bind =>
    cases q
    case h1 => obtain rfl := bind_h1_next.mp h; rfl
    case h2 => obtain rfl := bind_h2_next.mp h; rfl
  case enq =>
    cases q
    case e1 => obtain ⟨r, hr, rfl⟩ := enq_e1_next.mp h; exact enq_e1_next.mpr ⟨r, hr, rfl⟩
    case e2 =>
      obtain ⟨w, hw, rfl⟩ := enq_e2_next.mp h
      refine enq_e2_next.mpr ⟨w, hw, ?_⟩
      rw [← withTurns_enqFull]
      exact apply_ite (fun x => State.withTurns x ts) _ _ _
    case e3 => obtain ⟨w, hw, rfl⟩ := enq_e3_next.mp h; exact enq_e3_next.mpr ⟨w, hw, rfl⟩
    case e4 => obtain ⟨w, hw, rfl⟩ := enq_e4_next.mp h; exact enq_e4_next.mpr ⟨w, hw, rfl⟩
    case e5 => obtain ⟨a, ha, rfl⟩ := enq_e5_next.mp h; exact enq_e5_next.mpr ⟨a, ha, rfl⟩
    case e6 =>
      obtain rfl := enq_e6_next.mp h
      exact enq_e6_next.mpr (congrArg (State.setFg · _) (withTurns_armIf s ts _))
    case e7 =>
      obtain rfl := enq_e7_next.mp h
      exact enq_e7_next.mpr (congrArg (State.setFg · _) (withTurns_kickIf s ts _))
    case e8 => obtain rfl := enq_e8_next.mp h; rfl
  case deq =>
    cases q
    case q1 => obtain ⟨w, hw, rfl⟩ := deq_q1_next.mp h; exact deq_q1_next.mpr ⟨w, hw, rfl⟩
    case q2 =>
      obtain ⟨r, hr, rfl⟩ := deq_q2_next.mp h
      exact deq_q2_next.mpr ⟨r, hr, apply_ite (fun x => State.withTurns x ts) _ _ _⟩
    case q3 => obtain ⟨r, v, hr, hv, rfl⟩ := deq_q3_next.mp h; exact deq_q3_next.mpr ⟨r, v, hr, hv, rfl⟩
    case q4 => obtain ⟨r, hr, rfl⟩ := deq_q4_next.mp h; exact deq_q4_next.mpr ⟨r, hr, rfl⟩
    case q5 => obtain rfl := deq_q5_next.mp h; rfl
  case rxcnt =>
    cases q
    case n1 => obtain ⟨w, hw, rfl⟩ := rxcnt_n1_next.mp h; exact rxcnt_n1_next.mpr ⟨w, hw, rfl⟩
    case n2 => obtain ⟨r, hr, rfl⟩ := rxcnt_n2_next.mp h; exact rxcnt_n2_next.mpr ⟨r, hr, rfl⟩

/-- With another schedule each of a callback's labelled micro-steps reads the same values and makes the same update. -/
theorem irqMicro_withTurns {q : IrqPos} (h : irqMicro q s = .next t) :
    irqMicro q (s.withTurns ts) = .next (t.withTurns ts) := by
  rcases q with q | q
  case txrdy =>
    cases q
    case t1 => obtain ⟨hi, hb, rfl⟩ := txrdy_t1_next.mp h; exact txrdy_t1_next.mpr ⟨hi, hb, rfl⟩
    case t2 => obtain ⟨hi, w, hw, rfl⟩ := txrdy_t2_next.mp h; exact txrdy_t2_next.mpr ⟨hi, w, hw, rfl⟩
    case t3 => obtain ⟨hi, r, hr, rfl⟩ := txrdy_t3_next.mp h; exact txrdy_t3_next.mpr ⟨hi, r, hr, rfl⟩
    case t4 => obtain ⟨hi, r, v, hr, hv, rfl⟩ := txrdy_t4_next.mp h; exact txrdy_t4_next.mpr ⟨hi, r, v, hr, hv, rfl⟩
    case t5 => obtain ⟨hi, rfl⟩ := txrdy_t5_next.mp h; exact txrdy_t5_next.mpr ⟨hi, rfl⟩
    case t6 => obtain ⟨hi, r, hr, rfl⟩ := txrdy_t6_next.mp h; exact txrdy_t6_next.mpr ⟨hi, r, hr, rfl⟩
    case t7 => obtain ⟨hi, w, hw, rfl⟩ := txrdy_t7_next.mp h; exact txrdy_t7_next.mpr ⟨hi, w, hw, rfl⟩
    case t8 =>
      obtain ⟨hi, r, hr, rfl⟩ := txrdy_t8_next.mp h
      exact txrdy_t8_next.mpr ⟨hi, r, hr, congrArg State.endCallback (withTurns_disarmIf s ts _)⟩
    case t9 =>
      obtain ⟨hi, rfl⟩ := txrdy_t9_next.mp h
      exact txrdy_t9_next.mpr ⟨hi, congrArg State.endCallback (withTurns_emitIfBound s ts _)⟩
  case rxbyte =>
    cases q
    case b1 => obtain ⟨hi, r, hr, rfl⟩ := rxbyte_b1_next.mp h; exact rxbyte_b1_next.mpr ⟨hi, r, hr, rfl⟩
    case b2 =>
      obtain ⟨hi, w, hw, rfl⟩ := rxbyte_b2_next.mp h
      exact rxbyte_b2_next.mpr ⟨hi, w, hw, apply_ite (fun x => State.withTurns x ts) _ _ _⟩
    case b3 => obtain ⟨hi, w, hw, rfl⟩ := rxbyte_b3_next.mp h; exact rxbyte_b3_next.mpr ⟨hi, w, hw, rfl⟩
    case b4 => obtain ⟨hi, w, hw, rfl⟩ := rxbyte_b4_next.mp h; exact rxbyte_b4_next.mpr ⟨hi, w, hw, rfl⟩

theorem microStep_withTurns (h : microStep p s = .next t) :
    microStep p (s.withTurns ts) = .next (t.withTurns ts) := by
  obtain ⟨hb, hc⟩ := microStep_eq_next.mp h
  refine microStep_eq_next.mpr ⟨(inBounds_congr rfl rfl rfl rfl).trans hb, hc.imp (.imp_right ?_) (.imp_right ?_)⟩
  · exact Or.imp (fun ⟨q, hq, h⟩ => ⟨q, hq, fgMicro_withTurns h⟩) fun ⟨hq, e⟩ => ⟨hq, e ▸ rfl⟩
  · exact Or.imp (fun ⟨c, hq, h⟩ => ⟨c, hq, irqMicro_withTurns h⟩) fun ⟨hq, e⟩ => ⟨hq, e ▸ rfl⟩

theorem startAt_withTurns (i : Instr) (s : State) (ts : List Turn) :
    startAt i (s.withTurns ts) = (startAt i s).withTurns ts := by
  cases i <;> rfl

theorem setWords_withTurns (s : State) (ts : List Turn) (ws : List Word) :
    (s.withTurns ts).setWords p ws = (s.setWords p ws).withTurns ts := by
  cases p <;> rfl

/-! ### Turns of one micro-step each -/

/-- An agent keeps its next turn through its own micro-steps: under `SCHED = preempt` FG starts no callback. -/
theorem mover_microStep {g : Grain} (hm : s.mover ⟨p, g⟩ = p) (h : microStep p s = .next t) : t.mover ⟨p, g⟩ = p := by
  cases p
  · obtain ⟨hc, hi, -⟩ := microStep_fg_keeps h
    rw [mover_congr hc (by simpa using congrArg Option.isSome hi), hm]
  · exact mover_irq

theorem startAt_irq_of_fg {i : Instr} (h : i.port = .fg) : (startAt i s).irq = s.irq := by
  cases i <;> simp_all [Instr.port, startAt]

/-- Its own callback in flight does not take IRQ's turn away, and FG's operations are no callbacks. -/
theorem mover_startAt {i : Instr} {g : Grain} (hm : s.mover ⟨i.port, g⟩ = i.port) :
    (startAt i s).mover ⟨i.port, g⟩ = i.port := by
  cases hi : i.port
  case fg =>
    rw [mover_congr (startAt_cfg i s) (by rw [startAt_irq_of_fg hi]), ← hi, hm]
  case irq => exact mover_irq

/-- A run whole that answers makes a first micro-step, and the rest is a run whole of what may be left: none of it where FG is held. -/
theorem runMicro_first {n : Nat} (hf : s.inFlight p = true) (h : runMicro p (n + 1) s = .next t) :
    ∃ u k, k ≤ n ∧ microStep p s = .next u ∧ runMicro p k u = .next t := by
  simp only [runMicro, hf, if_true] at h
  obtain ⟨u, hu, h⟩ := andThen_eq_next.mp h
  split at h
  · exact ⟨u, 0, n.zero_le, hu, h⟩
  · exact ⟨u, n, le_rfl, hu, h⟩

/-- `n` turns of the agent for one micro-step each, and then `ts`. -/
def microTurns (p : Port) (n : Nat) (ts : List Turn) : List Turn := List.replicate n ⟨p, .micro⟩ ++ ts

theorem step_microTurns_inFlight {k : Nat} (hm : s.mover ⟨p, .micro⟩ = p) (hf : s.inFlight p = true) :
    step (s.withTurns (microTurns p (k + 1) ts)) = microStep p (s.withTurns (microTurns p k ts)) :=
  step_micro_inFlight (s := s.withTurns (microTurns p (k + 1) ts)) hm (by cases p <;> exact hf) rfl

theorem step_microTurns_decoded {k : Nat} {w : Word} {ws : List Word} {i : Instr} (hm : s.mover ⟨p, .micro⟩ = p)
    (hf : s.inFlight p = false) (hw : s.words p = w :: ws) (hd : decodeOn p w = .ok i) :
    step (s.withTurns (microTurns p (k + 1) ts)) =
      microStep p ((startAt i ((s.withTurns ts).setWords p ws)).withTurns (microTurns p k ts)) := by
  rw [← startAt_withTurns, ← setWords_withTurns]
  exact step_micro_decoded (s := s.withTurns (microTurns p (k + 1) ts)) hm (by cases p <;> exact hf)
    (by cases p <;> exact hw) hd rfl

/-- A run begins with a step. -/
theorem core_run_succ {n : Nat} {u : State} (h : step s = .next u) :
    Host.Core.run Sys2Proof.core (n + 1) s = Host.Core.run Sys2Proof.core n u := by
  have h : Sys2Proof.core.step s = .next u := h
  simp only [Host.Core.run, h]

/-- What a whole run answers, at most that many turns of one micro-step each reach. -/
theorem run_of_runMicro (hm : s.mover ⟨p, .micro⟩ = p) {n : Nat} (h : runMicro p n s = .next t) :
    ∃ k ≤ n, Host.Core.run Sys2Proof.core k (s.withTurns (microTurns p k ts)) = .next (t.withTurns ts) := by
  induction n using Nat.strong_induction_on generalizing s with
  | _ n ih =>
    cases hf : s.inFlight p
    case false =>
      rw [runMicro_idle hf] at h
      cases h
      exact ⟨0, n.zero_le, rfl⟩
    case true =>
      cases n
      case zero =>
        cases h
        exact ⟨0, le_rfl, rfl⟩
      case succ n =>
        obtain ⟨u, m, hmn, hu, h⟩ := runMicro_first hf h
        obtain ⟨k, hk, hrun⟩ := ih m (by omega) (mover_microStep hm hu) h
        refine ⟨k + 1, by omega, ?_⟩
        have hstep : step (s.withTurns (microTurns p (k + 1) ts)) = .next (u.withTurns (microTurns p k ts)) :=
          (step_microTurns_inFlight hm hf).trans (microStep_withTurns hu)
        rw [core_run_succ hstep, hrun]

end Sys2Proof.Machine

open Sys2Proof Sys2Proof.Machine

/-- Settles O15: the first turn takes the word and runs the first micro-step, and the turns after it the rest. -/
theorem wholeIsMicroSteps : Obligations.WholeIsMicroSteps := by
  unfold Obligations.WholeIsMicroSteps
  intro s t p w ws i ts hf hw hd hp h
  obtain rfl := port_of_decodeOn hd
  have hm : s.mover ⟨i.port, .micro⟩ = i.port := by
    cases hi : i.port
    · exact mover_fg (hp hi)
    · exact mover_irq
  have hts : t.withTurns ts = t := by
    have e : t.turns = ts := by simpa using exec_turns h
    rw [← e]
    rfl
  obtain ⟨-, -, h⟩ := exec_first h
  obtain ⟨u, m, hmn, hu, h⟩ := runMicro_first (startAt_inFlight i _) h
  have hmu : u.mover ⟨i.port, .micro⟩ = i.port :=
    mover_microStep (mover_startAt ((mover_congr (by simp) (by simp)).trans hm)) hu
  obtain ⟨k, hk, hrun⟩ := run_of_runMicro (ts := ts) hmu h
  refine ⟨k + 1, by omega, by simp only [maxMicro]; omega, ?_⟩
  have hstep : step (s.withTurns (microTurns i.port (k + 1) ts)) = .next (u.withTurns (microTurns i.port k ts)) :=
    (step_microTurns_decoded hm hf hw hd).trans (microStep_withTurns hu)
  rw [hts] at hrun
  exact (core_run_succ hstep).trans hrun
end

section
/-! SUPPORT. What every step keeps (00_scope.md R4, R7). -/

namespace Sys2Proof.Machine

variable {s t : State}

/-- A callback run to its end leaves what its micro-steps leave. -/
theorem runMicro_irq_keeps {n : Nat} (h : runMicro .irq n s = .next t) : IrqKeeps s t :=
  runMicro_keeps (P := IrqKeeps s) (fun _ _ hu h => hu.trans (microStep_irq_keeps h)) n (IrqKeeps.refl s) h

/-- Under `SCHED = preempt`, with a callback in flight, a step is one of the callback or runs it to its end (00_scope.md R7). -/
theorem step_preempt_keeps (hs : s.cfg.sched = .preempt) (hi : s.irq.isSome = true) (h : step s = .next t) :
    IrqKeeps s.dropTurn t := by
  have hm : s.mover s.turnOf = .irq := mover_of_preempt hs hi
  cases hg : s.turnOf.grain
  case micro => exact microStep_irq_keeps ((step_micro_inFlight hm hi hg).symm.trans h)
  case whole => exact runMicro_irq_keeps ((step_whole_inFlight hm hi hg).symm.trans h)

end Sys2Proof.Machine

open Sys2Proof Sys2Proof.Machine

/-- Settles O13: the callback moves, and its micro-steps leave FG, the words and the responses. -/
theorem preemptKeepsForeground : Obligations.PreemptKeepsForeground := by
  unfold Obligations.PreemptKeepsForeground
  intro s t hs hi h
  have k := step_preempt_keeps hs hi h
  exact ⟨by simpa using k.fg, by simpa using k.fgIn, by simpa using k.irqIn, by simpa using k.rspOut⟩

/-- Settles O40: what is kept by taking turns and words, starting operations and every micro-step is kept by every step. -/
theorem parametersFixed : Obligations.ParametersFixed := by
  unfold Obligations.ParametersFixed
  intro s t h
  refine step_keeps (P := fun u => u.cfg = s.cfg) ?drop ?words ?respond ?start ?micro rfl h
  case drop => intro u hu; simpa using hu
  case words => intro u p ws hu; simpa using hu
  case respond => intro u hu; simpa using hu
  case start => intro u i _ _ hu _; simpa using hu
  case micro => intro p u v hu h; exact (microStep_cfg h).trans hu

end

section
/-! SUPPORT. Which parameters construction accepts (00_scope.md R5). -/

namespace Sys2Proof.Machine

variable {p : Params} {n : Nat}

theorem isPowerOfTwo_iff : isPowerOfTwo n = true ↔ ∃ k, n = 2 ^ k := by
  rw [isPowerOfTwo, beq_iff_eq]
  refine ⟨fun h => ⟨_, h⟩, ?_⟩
  rintro ⟨k, rfl⟩
  rw [Nat.log2_two_pow]

theorem legalParams_iff : legalParams p = true ↔
    (∃ k, p.capTx = 2 ^ k) ∧ (∃ k, p.capRx = 2 ^ k) ∧ p.capTx < 2 ^ p.idxW ∧ p.capRx < 2 ^ p.idxW := by
  simp only [legalParams, Bool.and_eq_true, isPowerOfTwo_iff, decide_eq_true_eq, and_assoc]

/-- `2^IDX_W > 2^k` is `IDX_W >= k + 1` (00_scope.md R5(b)). -/
theorem cap_lt_iff {k : Nat} (h : n = 2 ^ k) (w : Nat) : n < 2 ^ w ↔ k + 1 ≤ w := by
  rw [h, Nat.pow_lt_pow_iff_right (by decide), Nat.succ_le_iff]

/-- The configuration of legal parameters has the capacities offered. -/
theorem configOf_cap (hTx : ∃ k, p.capTx = 2 ^ k) (hRx : ∃ k, p.capRx = 2 ^ k) :
    (configOf p).cap .tx = p.capTx ∧ (configOf p).cap .rx = p.capRx := by
  obtain ⟨k, hk⟩ := hTx
  obtain ⟨l, hl⟩ := hRx
  simp [configOf, Config.cap, hk, hl]

/-- The configuration of legal parameters has the width offered: it is at least the least legal one. -/
theorem configOf_idxW (hTx : ∃ k, p.capTx = 2 ^ k) (hRx : ∃ k, p.capRx = 2 ^ k) (hTx' : p.capTx < 2 ^ p.idxW)
    (hRx' : p.capRx < 2 ^ p.idxW) : (configOf p).idxW = p.idxW := by
  obtain ⟨k, hk⟩ := hTx
  obtain ⟨l, hl⟩ := hRx
  rw [cap_lt_iff hk] at hTx'
  rw [cap_lt_iff hl] at hRx'
  simp only [configOf, Config.idxW, hk, hl, Nat.log2_two_pow]
  omega

end Sys2Proof.Machine

open Sys2Proof Sys2Proof.Machine

/-- Settles O9: construction's test is the rule's condition, and `configOf` gives the parameters back. -/
theorem constructionAcceptsLegal : Obligations.ConstructionAcceptsLegal := by
  unfold Obligations.ConstructionAcceptsLegal
  intro p
  rw [← legalParams_iff]
  refine ⟨fun h => ?_, fun h => ?_, fun k hk => cap_lt_iff hk _, fun k hk => cap_lt_iff hk _⟩
  · obtain ⟨hTx, hRx, hTx', hRx'⟩ := legalParams_iff.mp h
    obtain ⟨hcTx, hcRx⟩ := configOf_cap hTx hRx
    exact ⟨configOf p, by simp [State.construct, h], hcTx, hcRx, configOf_idxW hTx hRx hTx' hRx', rfl, rfl⟩
  · simp [State.construct, h]

end

section
/-! SUPPORT. What a micro-step can do to the registers, said once for each agent: it updates at most one of them, as the labelled micro-step of its
operation says (41_foreground.md R110 to R116, 42_interrupt.md R130, R131), and then only its agent's position. What may change and who may change it
(10_state.md R20, R22, R24, R25) follows from the few updates there are. -/

namespace Sys2Proof.Machine

variable {s t u : State} {p : Port}

/-! ### Operations in flight -/

/-- The seven operations without their operands (30_encoding.md R72). -/
inductive Op where
  | init | bind | enq | deq | rxcnt | txrdy | rxbyte

/-- The operation an instruction spells. -/
def opOf : Instr → Op
  | .init => .init
  | .bind _ => .bind
  | .enq _ => .enq
  | .deq => .deq
  | .rxcnt => .rxcnt
  | .txrdy => .txrdy
  | .rxbyte _ => .rxbyte

/-- The port an operation is issued on. -/
def Op.port : Op → Port
  | .init | .bind | .enq | .deq | .rxcnt => .fg
  | .txrdy | .rxbyte => .irq

/-- The operation a position of FG is in. -/
def FgPos.op : FgPos → Op
  | .init _ => .init
  | .bind _ => .bind
  | .enq _ => .enq
  | .deq _ => .deq
  | .rxcnt _ => .rxcnt

/-- The operation a position of IRQ is in. -/
def IrqPos.op : IrqPos → Op
  | .txrdy _ => .txrdy
  | .rxbyte _ => .rxbyte

theorem port_opOf (i : Instr) : (opOf i).port = i.port := by cases i <;> rfl

theorem FgPos.port_op (q : FgPos) : q.op.port = .fg := by cases q <;> rfl

theorem IrqPos.port_op (q : IrqPos) : q.op.port = .irq := by cases q <;> rfl

/-- Where a micro-step of FG leads: to the end, or onward in the same operation, nearer to its end unless ENQ is held at E1
(41_foreground.md R114, R117). -/
def FgPos.Goes (q : FgPos) : Option FgPos → Prop
  | none => True
  | some q' => q'.op = q.op ∧ (q'.stepsLeft < q.stepsLeft ∨ ∃ b, q' = .enq (.e1 b))

/-- Where a micro-step of a callback leads when not to the end: onward in the same operation, nearer to its end (42_interrupt.md R137). -/
def IrqPos.Goes (q q' : IrqPos) : Prop := q'.op = q.op ∧ q'.stepsLeft < q.stepsLeft

theorem FgPos.onward {q q' : FgPos} (ho : q'.op = q.op) (h : Nat.blt q'.stepsLeft q.stepsLeft = true) : q.Goes (some q') :=
  ⟨ho, .inl (Nat.le_of_ble_eq_true h)⟩

theorem IrqPos.onward {q q' : IrqPos} (ho : q'.op = q.op) (h : Nat.blt q'.stepsLeft q.stepsLeft = true) : q.Goes q' :=
  ⟨ho, Nat.le_of_ble_eq_true h⟩

/-! ### The updates -/

/-- What FG's micro-step at a position may do to the registers. -/
inductive FgEffect (s : State) : FgPos → State → Prop
  | nothing (q : FgPos) : FgEffect s q s
  | answer (q : FgPos) (st : Status) (v : Nat) : FgEffect s q (s.respond st v)
  | zeroTxWrite : FgEffect s (.init .i1) (s.setWriteIndex .tx 0).markRaced
  | zeroTxRead : FgEffect s (.init .i2) (s.setReadIndex .tx 0)
  | zeroRxWrite : FgEffect s (.init .i3) (s.setWriteIndex .rx 0)
  | zeroRxRead : FgEffect s (.init .i4) (s.setReadIndex .rx 0)
  | disarm : FgEffect s (.init .i5) (s.setArmed false)
  | enableRx : FgEffect s (.init .i6) (s.emit (.setRxEn true))
  | bind (m : BitVec 3) : FgEffect s (.bind (.h1 m)) (s.setHooks m)
  | store (b : Byte) (w : Nat) (hw : s.tx.writeIndex = some w) :
    FgEffect s (.enq (.e3 b)) (s.memWrite .tx (slotOf s.cfg .tx w) b)
  | push (b : Byte) (w : Nat) (hw : s.tx.writeIndex = some w) :
    FgEffect s (.enq (.e4 b)) (s.setWriteIndex .tx (counterInc s.cfg w))
  | arm : FgEffect s (.enq (.e6 false)) (s.setArmed true)
  | kick : FgEffect s (.enq (.e7 false)) (s.emit (.setTxEn true))
  | pop (v : Byte) (r : Nat) (hr : s.rx.readIndex = some r) :
    FgEffect s (.deq (.q4 v)) (s.setReadIndex .rx (counterInc s.cfg r))

/-- What a callback's micro-step at a position may do to the registers. -/
inductive IrqEffect (s : State) : IrqPos → State → Prop
  | nothing (q : IrqPos) : IrqEffect s q s
  | send (v : Byte) : IrqEffect s (.txrdy (.t5 v)) (s.emit (.sendByte v))
  | pop (v : Byte) (r : Nat) (hr : s.tx.readIndex = some r) :
    IrqEffect s (.txrdy (.t6 v)) (s.setReadIndex .tx (counterInc s.cfg r))
  | disarm (w : Nat) : IrqEffect s (.txrdy (.t8 w)) (s.setArmed false)
  | disableTx : IrqEffect s (.txrdy .t9) (s.emit (.setTxEn false))
  | store (b : Byte) (w : Nat) (hw : s.rx.writeIndex = some w) :
    IrqEffect s (.rxbyte (.b3 b)) (s.memWrite .rx (slotOf s.cfg .rx w) b)
  | push (b : Byte) (w : Nat) (hw : s.rx.writeIndex = some w) :
    IrqEffect s (.rxbyte (.b4 b)) (s.setWriteIndex .rx (counterInc s.cfg w))

/-- A conditional emission emits or does nothing (60_exceptions.md R151). -/
theorem emitIfBound_cases (s : State) (e : HookEvent) : s.emitIfBound e = s.emit e ∨ s.emitIfBound e = s := by
  unfold State.emitIfBound
  split
  · exact .inl rfl
  · exact .inr rfl

theorem enqFull_effect (b : Byte) (r : Nat) (s : State) :
    ∃ u x, FgEffect s (.enq (.e2 b r)) u ∧ enqFull b s = u.setFg x ∧ (FgPos.enq (.e2 b r)).Goes x := by
  unfold enqFull
  split
  · exact ⟨_, none, .answer _ .bufferFull 0, rfl, trivial⟩
  · exact ⟨_, some _, .nothing _, rfl, rfl, .inr ⟨b, rfl⟩⟩

/-- Every micro-step of FG is one of the updates and a new position. -/
theorem fgMicro_effect {q : FgPos} (h : fgMicro q s = .next t) : ∃ u x, FgEffect s q u ∧ t = u.setFg x ∧ q.Goes x := by
  rcases q with q | q | q | q | q
  case init =>
    cases q
    case i1 => exact ⟨_, some _, .zeroTxWrite, init_i1_next.mp h, FgPos.onward rfl rfl⟩
    case i2 => exact ⟨_, some _, .zeroTxRead, init_i2_next.mp h, FgPos.onward rfl rfl⟩
    case i3 => exact ⟨_, some _, .zeroRxWrite, init_i3_next.mp h, FgPos.onward rfl rfl⟩
    case i4 => exact ⟨_, some _, .zeroRxRead, init_i4_next.mp h, FgPos.onward rfl rfl⟩
    case i5 => exact ⟨_, some _, .disarm, init_i5_next.mp h, FgPos.onward rfl rfl⟩
    case i6 =>
      obtain rfl := init_i6_next.mp h
      rcases emitIfBound_cases s (.setRxEn true) with e | e <;> rw [e]
      · exact ⟨_, some _, .enableRx, rfl, FgPos.onward rfl rfl⟩
      · exact ⟨_, some _, .nothing _, rfl, FgPos.onward rfl rfl⟩
    case i7 => exact ⟨_, none, .answer _ .ok 0, init_i7_next.mp h, trivial⟩
  case bind =>
    cases q
    case h1 m => exact ⟨_, some _, .bind m, bind_h1_next.mp h, FgPos.onward rfl rfl⟩
    case h2 => exact ⟨_, none, .answer _ .ok 0, bind_h2_next.mp h, trivial⟩
  case enq =>
    cases q
    case e1 b =>
      obtain ⟨r, -, rfl⟩ := enq_e1_next.mp h
      exact ⟨_, some _, .nothing _, rfl, FgPos.onward rfl rfl⟩
    case e2 b r =>
      obtain ⟨w, -, rfl⟩ := enq_e2_next.mp h
      split
      · exact enqFull_effect b r s
      · exact ⟨_, some _, .nothing _, rfl, FgPos.onward rfl rfl⟩
    case e3 b =>
      obtain ⟨w, hw, rfl⟩ := enq_e3_next.mp h
      exact ⟨_, some _, .store b w hw, rfl, FgPos.onward rfl rfl⟩
    case e4 b =>
      obtain ⟨w, hw, rfl⟩ := enq_e4_next.mp h
      exact ⟨_, some _, .push b w hw, rfl, FgPos.onward rfl rfl⟩
    case e5 =>
      obtain ⟨a, -, rfl⟩ := enq_e5_next.mp h
      exact ⟨_, some _, .nothing _, rfl, FgPos.onward rfl rfl⟩
    case e6 a =>
      obtain rfl := enq_e6_next.mp h
      cases a
      · exact ⟨_, some _, .arm, rfl, FgPos.onward rfl rfl⟩
      · exact ⟨_, some _, .nothing _, rfl, FgPos.onward rfl rfl⟩
    case e7 a =>
      obtain rfl := enq_e7_next.mp h
      cases a
      · simp only [kickIf, Bool.false_eq_true, if_false]
        rcases emitIfBound_cases s (.setTxEn true) with e | e <;> rw [e]
        · exact ⟨_, some _, .kick, rfl, FgPos.onward rfl rfl⟩
        · exact ⟨_, some _, .nothing _, rfl, FgPos.onward rfl rfl⟩
      · exact ⟨_, some _, .nothing _, rfl, FgPos.onward rfl rfl⟩
    case e8 => exact ⟨_, none, .answer _ .ok 0, enq_e8_next.mp h, trivial⟩
  case deq =>
    cases q
    case q1 =>
      obtain ⟨w, -, rfl⟩ := deq_q1_next.mp h
      exact ⟨_, some _, .nothing _, rfl, FgPos.onward rfl rfl⟩
    case q2 =>
      obtain ⟨r, -, rfl⟩ := deq_q2_next.mp h
      split
      · exact ⟨_, none, .answer _ .bufferEmpty 0, rfl, trivial⟩
      · exact ⟨_, some _, .nothing _, rfl, FgPos.onward rfl rfl⟩
    case q3 =>
      obtain ⟨r, v, -, -, rfl⟩ := deq_q3_next.mp h
      exact ⟨_, some _, .nothing _, rfl, FgPos.onward rfl rfl⟩
    case q4 v =>
      obtain ⟨r, hr, rfl⟩ := deq_q4_next.mp h
      exact ⟨_, some _, .pop v r hr, rfl, FgPos.onward rfl rfl⟩
    case q5 => exact ⟨_, none, .answer _ .ok _, deq_q5_next.mp h, trivial⟩
  case rxcnt =>
    cases q
    case n1 =>
      obtain ⟨w, -, rfl⟩ := rxcnt_n1_next.mp h
      exact ⟨_, some _, .nothing _, rfl, FgPos.onward rfl rfl⟩
    case n2 =>
      obtain ⟨r, -, rfl⟩ := rxcnt_n2_next.mp h
      exact ⟨_, none, .answer _ .ok _, rfl, trivial⟩

/-- Every micro-step of a callback meets no race; it is one of the updates, and the end or a new position. -/
theorem irqMicro_effect {q : IrqPos} (h : irqMicro q s = .next t) :
    s.initRaced = false ∧ ∃ u, IrqEffect s q u ∧ (t = u.endCallback ∨ ∃ q', t = u.setIrqPos q' ∧ q.Goes q') := by
  refine ⟨(irqMicro_eq_next.mp h).1, ?_⟩
  rcases q with q | q
  case txrdy =>
    cases q
    case t1 =>
      obtain ⟨-, -, rfl⟩ := txrdy_t1_next.mp h
      exact ⟨_, .nothing _, .inr ⟨_, rfl, IrqPos.onward rfl rfl⟩⟩
    case t2 =>
      obtain ⟨-, w, -, rfl⟩ := txrdy_t2_next.mp h
      exact ⟨_, .nothing _, .inr ⟨_, rfl, IrqPos.onward rfl rfl⟩⟩
    case t3 w =>
      obtain ⟨-, r, -, rfl⟩ := txrdy_t3_next.mp h
      split
      · exact ⟨_, .nothing _, .inr ⟨_, rfl, IrqPos.onward rfl rfl⟩⟩
      · exact ⟨_, .nothing _, .inr ⟨_, rfl, IrqPos.onward rfl rfl⟩⟩
    case t4 =>
      obtain ⟨-, r, v, -, -, rfl⟩ := txrdy_t4_next.mp h
      exact ⟨_, .nothing _, .inr ⟨_, rfl, IrqPos.onward rfl rfl⟩⟩
    case t5 v =>
      obtain ⟨-, rfl⟩ := txrdy_t5_next.mp h
      exact ⟨_, .send v, .inr ⟨_, rfl, IrqPos.onward rfl rfl⟩⟩
    case t6 v =>
      obtain ⟨-, r, hr, rfl⟩ := txrdy_t6_next.mp h
      exact ⟨_, .pop v r hr, .inr ⟨_, rfl, IrqPos.onward rfl rfl⟩⟩
    case t7 =>
      obtain ⟨-, w, -, rfl⟩ := txrdy_t7_next.mp h
      exact ⟨_, .nothing _, .inr ⟨_, rfl, IrqPos.onward rfl rfl⟩⟩
    case t8 w =>
      obtain ⟨-, r, -, rfl⟩ := txrdy_t8_next.mp h
      unfold disarmIf
      split
      · exact ⟨_, .disarm w, .inl rfl⟩
      · exact ⟨_, .nothing _, .inl rfl⟩
    case t9 =>
      obtain ⟨-, rfl⟩ := txrdy_t9_next.mp h
      rcases emitIfBound_cases s (.setTxEn false) with e | e <;> rw [e]
      · exact ⟨_, .disableTx, .inl rfl⟩
      · exact ⟨_, .nothing _, .inl rfl⟩
  case rxbyte =>
    cases q
    case b1 b =>
      obtain ⟨-, r, -, rfl⟩ := rxbyte_b1_next.mp h
      exact ⟨_, .nothing _, .inr ⟨_, rfl, IrqPos.onward rfl rfl⟩⟩
    case b2 =>
      obtain ⟨-, w, -, rfl⟩ := rxbyte_b2_next.mp h
      split
      · exact ⟨_, .nothing _, .inl rfl⟩
      · exact ⟨_, .nothing _, .inr ⟨_, rfl, IrqPos.onward rfl rfl⟩⟩
    case b3 b =>
      obtain ⟨-, w, hw, rfl⟩ := rxbyte_b3_next.mp h
      exact ⟨_, .store b w hw, .inr ⟨_, rfl, IrqPos.onward rfl rfl⟩⟩
    case b4 b =>
      obtain ⟨-, w, hw, rfl⟩ := rxbyte_b4_next.mp h
      exact ⟨_, .push b w hw, .inl rfl⟩

end Sys2Proof.Machine
end

section
/-! SUPPORT. The invariant of 10_state.md R22, R23, R33 buffer by buffer: what the one producer and the one consumer of a buffer have established
(40_ringbuffer.md R101; 70_reset_and_hazards.md R192), and that the micro-steps of PUSH and POP keep it, each said once for both buffers. -/

namespace Sys2Proof.Machine

variable {s t : State} {b : Buf} {w r : Nat} {v : Byte}

/-! ### How far a push and a pop have come -/

/-- How far the producer of a buffer has come in PUSH (40_ringbuffer.md R94): `copied` after P1, `room` after P2, `stored` after P3. -/
inductive PushStage where
  | idle
  | copied (r : Nat)
  | room
  | stored (v : Byte)

/-- How far the consumer of a buffer has come in POP or OCC (40_ringbuffer.md R93, R95): `copied` after O1, `pending` after O2, `loaded`
after O3. -/
inductive PopStage where
  | idle
  | copied (w : Nat)
  | pending
  | loaded (v : Byte)

/-- What a producer has established at its stage. -/
def PushOk (s : State) (b : Buf) (w r : Nat) : PushStage → Prop
  | .idle => True
  | .copied r' => producerOk s b w r r'
  | .room => counterSub s.cfg w r < s.cfg.cap b
  | .stored v => counterSub s.cfg w r < s.cfg.cap b ∧ s.memRead b (slotOf s.cfg b w) = some v

/-- What a consumer has established at its stage. -/
def PopOk (s : State) (b : Buf) (w r : Nat) : PopStage → Prop
  | .idle => True
  | .copied w' => consumerOk s w r w'
  | .pending => 0 < counterSub s.cfg w r
  | .loaded v => 0 < counterSub s.cfg w r ∧ s.memRead b (slotOf s.cfg b r) = some v

/-- The part of the invariant that is about one buffer, after an INIT. -/
def RingOk (s : State) (b : Buf) (x : PushStage) (y : PopStage) : Prop :=
  storageOk s b ∧ ∃ w r, (s.ring b).writeIndex = some w ∧ (s.ring b).readIndex = some r ∧
    countersOk s b w r ∧ PushOk s b w r x ∧ PopOk s b w r y

/-- FG's stage as the producer of `tx`: ENQ's E1 to E4 are PUSH (41_foreground.md R112). -/
def fgPush : Option FgPos → PushStage
  | some (.enq (.e2 _ r)) => .copied r
  | some (.enq (.e3 _)) => .room
  | some (.enq (.e4 b)) => .stored b
  | _ => .idle

/-- FG's stage as the consumer of `rx`: DEQ's Q1 to Q4 are POP, RXCNT is OCC (41_foreground.md R115, R116). -/
def fgPop : Option FgPos → PopStage
  | some (.deq (.q2 w)) => .copied w
  | some (.deq .q3) => .pending
  | some (.deq (.q4 v)) => .loaded v
  | some (.rxcnt (.n2 w)) => .copied w
  | _ => .idle

/-- IRQ's stage as the consumer of `tx`: TXRDY's T2 to T6 are POP, T7 and T8 OCC (42_interrupt.md R130). A callback that an INIT has overlapped
has established nothing. -/
def irqPop : Option IrqRun → PopStage
  | some ⟨.txrdy (.t3 w), false⟩ => .copied w
  | some ⟨.txrdy .t4, false⟩ => .pending
  | some ⟨.txrdy (.t5 v), false⟩ => .loaded v
  | some ⟨.txrdy (.t6 v), false⟩ => .loaded v
  | some ⟨.txrdy (.t8 w), false⟩ => .copied w
  | _ => .idle

/-- IRQ's stage as the producer of `rx`: RXBYTE's B1 to B4 are PUSH (42_interrupt.md R131). -/
def irqPush : Option IrqRun → PushStage
  | some ⟨.rxbyte (.b2 _ r), false⟩ => .copied r
  | some ⟨.rxbyte (.b3 _), false⟩ => .room
  | some ⟨.rxbyte (.b4 b), false⟩ => .stored b
  | _ => .idle

theorem fgOk_iff {wt rt wr rr : Nat} :
    fgOk s wt rt wr rr ↔ PushOk s .tx wt rt (fgPush s.fg) ∧ PopOk s .rx wr rr (fgPop s.fg) := by
  unfold fgOk fgPush fgPop
  split <;> simp_all [PushOk, PopOk]

theorem irqOk_iff {wt rt wr rr : Nat} :
    irqOk s wt rt wr rr ↔ PopOk s .tx wt rt (irqPop s.irq) ∧ PushOk s .rx wr rr (irqPush s.irq) := by
  unfold irqOk irqPush irqPop
  split <;> simp_all [PushOk, PopOk]

/-- The invariant after an INIT, buffer by buffer, the stages of the producers and consumers given. -/
structure BuffersOk (s : State) (txPush : PushStage) (txPop : PopStage) (rxPush : PushStage) (rxPop : PopStage) : Prop where
  tx : RingOk s .tx txPush txPop
  rx : RingOk s .rx rxPush rxPop
  armed : s.txArmed ≠ none

/-- A state outside an INIT with the invariant and everything written is one whose buffers are as its agents have established. -/
theorem inv_and_settled_iff (hn : s.inInit = false) : s.Inv ∧ settled s ↔
    BuffersOk s (fgPush s.fg) (irqPop s.irq) (irqPush s.irq) (fgPop s.fg) := by
  rw [inv_iff hn]
  constructor
  · rintro ⟨⟨k1, k2, -⟩, hs⟩
    obtain ⟨wt, rt, wr, rr, a, h1, h2, h3, h4, h5, c1, c2, hf, hi⟩ := settled_iff.mp hs
    obtain ⟨f1, f2⟩ := fgOk_iff.mp hf
    obtain ⟨i1, i2⟩ := irqOk_iff.mp hi
    exact ⟨⟨k1, wt, rt, h1, h2, c1, f1, i1⟩, ⟨k2, wr, rr, h3, h4, c2, i2, f2⟩, by simp [h5]⟩
  · rintro ⟨⟨k1, wt, rt, h1, h2, c1, f1, i1⟩, ⟨k2, wr, rr, h3, h4, c2, i2, f2⟩, ha⟩
    obtain ⟨a, h5⟩ := Option.ne_none_iff_exists'.mp ha
    have hs : settled s :=
      settled_iff.mpr ⟨wt, rt, wr, rr, a, h1, h2, h3, h4, h5, c1, c2, fgOk_iff.mpr ⟨f1, f2⟩, irqOk_iff.mpr ⟨i1, i2⟩⟩
    exact ⟨⟨k1, k2, .inr hs⟩, hs⟩

/-! ### What the micro-steps of PUSH and POP do to a buffer's part of the invariant -/

theorem storageOk_congr (hc : t.cfg = s.cfg) (hm : (t.ring b).storage = (s.ring b).storage) (h : storageOk s b) :
    storageOk t b := by
  unfold storageOk
  rw [hc, hm]
  exact h

theorem storageOk_of_rings (hc : t.cfg = s.cfg) (h1 : t.tx = s.tx) (h2 : t.rx = s.rx) (h : storageOk s b) :
    storageOk t b :=
  storageOk_congr hc (by cases b <;> simp [h1, h2]) h

theorem PushOk_congr {x : PushStage} (hc : t.cfg = s.cfg) (hm : ∀ a, t.memRead b a = s.memRead b a) :
    PushOk t b w r x ↔ PushOk s b w r x := by
  cases x <;> simp only [PushOk, producerOk, hc, hm]

theorem PopOk_congr {y : PopStage} (hc : t.cfg = s.cfg) (hm : ∀ a, t.memRead b a = s.memRead b a) :
    PopOk t b w r y ↔ PopOk s b w r y := by
  cases y <;> simp only [PopOk, consumerOk, hc, hm]

/-! What the updates of PUSH and POP leave, whichever buffer they are of. -/

@[simp] theorem setWriteIndex_cfg (s : State) (b : Buf) (i : Nat) : (s.setWriteIndex b i).cfg = s.cfg := by cases b <;> rfl

@[simp] theorem setReadIndex_cfg (s : State) (b : Buf) (i : Nat) : (s.setReadIndex b i).cfg = s.cfg := by cases b <;> rfl

@[simp] theorem memWrite_cfg (s : State) (b : Buf) (a : Nat) (v : Byte) : (s.memWrite b a v).cfg = s.cfg := by
  cases b <;> rfl

@[simp] theorem setWriteIndex_ring (s : State) (b : Buf) (i : Nat) :
    (s.setWriteIndex b i).ring b = { s.ring b with writeIndex := some i } := by cases b <;> rfl

@[simp] theorem setReadIndex_ring (s : State) (b : Buf) (i : Nat) :
    (s.setReadIndex b i).ring b = { s.ring b with readIndex := some i } := by cases b <;> rfl

@[simp] theorem memWrite_ring (s : State) (b : Buf) (a : Nat) (v : Byte) :
    (s.memWrite b a v).ring b = { s.ring b with storage := (s.ring b).storage.write a v } := by cases b <;> rfl

theorem setWriteIndex_memRead (s : State) (b : Buf) (i a : Nat) : (s.setWriteIndex b i).memRead b a = s.memRead b a := by
  simp [State.memRead]

theorem setReadIndex_memRead (s : State) (b : Buf) (i a : Nat) : (s.setReadIndex b i).memRead b a = s.memRead b a := by
  simp [State.memRead]

theorem memWrite_memRead (s : State) (b : Buf) (a a' : Nat) (v : Byte) :
    (s.memWrite b a v).memRead b a' = if a' = a then some v else s.memRead b a' := by
  simp [State.memRead, Memory.read_write]

namespace RingOk

variable {x : PushStage} {y : PopStage}

/-- A buffer's part of the invariant is about the parameters and that buffer. -/
theorem congr (hc : t.cfg = s.cfg) (hr : t.ring b = s.ring b) (h : RingOk s b x y) : RingOk t b x y := by
  obtain ⟨k, w, r, hw, hr', c, hx, hy⟩ := h
  have hm : ∀ a, t.memRead b a = s.memRead b a := fun a => by rw [State.memRead, hr, State.memRead]
  refine ⟨storageOk_congr hc (by rw [hr]) k, w, r, hr ▸ hw, hr ▸ hr', ?_, ?_, ?_⟩
  · simpa only [countersOk, hc, hm] using c
  · exact (PushOk_congr hc hm).mpr hx
  · exact (PopOk_congr hc hm).mpr hy

theorem pushIdle (h : RingOk s b x y) : RingOk s b .idle y := by
  obtain ⟨k, w, r, hw, hr, c, -, hy⟩ := h
  exact ⟨k, w, r, hw, hr, c, trivial, hy⟩

theorem popIdle (h : RingOk s b x y) : RingOk s b x .idle := by
  obtain ⟨k, w, r, hw, hr, c, hx, -⟩ := h
  exact ⟨k, w, r, hw, hr, c, hx, trivial⟩

/-- P1: the copy is the consumer's index itself. -/
theorem pushRead (h : RingOk s b x y) (hr : (s.ring b).readIndex = some r) : RingOk s b (.copied r) y := by
  obtain ⟨k, w, r', hw, hr', c, -, hy⟩ := h
  obtain rfl : r' = r := Option.some.inj (hr'.symm.trans hr)
  exact ⟨k, w, r', hw, hr', c, ⟨c.2.1, le_rfl, c.2.2.1⟩, hy⟩

/-- P2: where the copy shows room there is room, for it only over-estimates the occupancy. -/
theorem pushTest {r' : Nat} (h : RingOk s b (.copied r') y) (hw : (s.ring b).writeIndex = some w)
    (hne : counterSub s.cfg w r' ≠ s.cfg.cap b) : RingOk s b .room y := by
  obtain ⟨k, w', r, hw', hr, c, ⟨-, hle, hcap⟩, hy⟩ := h
  obtain rfl : w' = w := Option.some.inj (hw'.symm.trans hw)
  exact ⟨k, w', r, hw', hr, c, lt_of_le_of_lt hle (lt_of_le_of_ne hcap hne), hy⟩

/-- P3: the slot stored to is none of the queued ones, so a loaded byte is still its slot's (40_ringbuffer.md R100). -/
theorem pushStore (h : RingOk s b .room y) (hw : (s.ring b).writeIndex = some w) :
    RingOk (s.memWrite b (slotOf s.cfg b w) v) b (.stored v) y := by
  obtain ⟨k, w', r, hw', hr, c, hx, hy⟩ := h
  obtain rfl : w' = w := Option.some.inj (hw'.symm.trans hw)
  refine ⟨storageOk_store w' k, w', r, by simpa using hw', by simpa using hr, countersOk_store _ c, ?_, ?_⟩
  · exact ⟨by rw [memWrite_cfg]; exact hx, by simp [memWrite_memRead]⟩
  · cases y
    case idle => trivial
    case copied => simpa [PopOk, consumerOk] using hy
    case pending => simpa [PopOk] using hy
    case loaded u =>
      obtain ⟨hpos, hu⟩ := hy
      refine ⟨by simpa using hpos, ?_⟩
      rw [memWrite_cfg, memWrite_memRead, if_neg (slotOf_read_ne_write hpos hx), hu]

/-- P4: one more byte is queued; a consumer's copy still under-estimates the occupancy. -/
theorem pushAdvance (h : RingOk s b (.stored v) y) (hw : (s.ring b).writeIndex = some w) :
    RingOk (s.setWriteIndex b (counterInc s.cfg w)) b .idle y := by
  obtain ⟨k, w', r, hw', hr, c, ⟨hlt, hv⟩, hy⟩ := h
  obtain rfl : w' = w := Option.some.inj (hw'.symm.trans hw)
  have hcap := cap_lt s.cfg b
  have hinc := counterSub_inc_left (c := s.cfg) (a := w') (b := r) (by omega)
  refine ⟨storageOk_congr (by simp) (by simp) k, _, r, by simp, by simpa using hr, countersOk_push c hlt hv, trivial, ?_⟩
  refine (PopOk_congr (s := s) (by simp) (setWriteIndex_memRead s b _)).mpr ?_
  cases y
  case idle => trivial
  case copied w2 => exact ⟨hy.1, hinc ▸ Nat.le_succ_of_le hy.2⟩
  case pending => exact lt_of_lt_of_eq (Nat.succ_pos _) hinc.symm
  case loaded u => exact ⟨hinc ▸ Nat.succ_pos _, hy.2⟩

/-- O1: the copy is the producer's index itself. -/
theorem popRead (h : RingOk s b x y) (hw : (s.ring b).writeIndex = some w) : RingOk s b x (.copied w) := by
  obtain ⟨k, w', r, hw', hr, c, hx, -⟩ := h
  obtain rfl : w' = w := Option.some.inj (hw'.symm.trans hw)
  exact ⟨k, w', r, hw', hr, c, hx, ⟨c.1, le_rfl⟩⟩

/-- O2: where the copy shows a byte there is one, for it only under-estimates the occupancy. -/
theorem popCount {w' : Nat} (h : RingOk s b x (.copied w')) (hr : (s.ring b).readIndex = some r)
    (hne : counterSub s.cfg w' r ≠ 0) : RingOk s b x .pending := by
  obtain ⟨k, w, r', hw, hr', c, hx, ⟨-, hle⟩⟩ := h
  obtain rfl : r' = r := Option.some.inj (hr'.symm.trans hr)
  exact ⟨k, w, r', hw, hr', c, hx, lt_of_lt_of_le (Nat.pos_of_ne_zero hne) hle⟩

/-- O3: the byte loaded is the read slot's. -/
theorem popLoad (h : RingOk s b x .pending) (hr : (s.ring b).readIndex = some r)
    (hv : s.memRead b (slotOf s.cfg b r) = some v) : RingOk s b x (.loaded v) := by
  obtain ⟨k, w, r', hw, hr', c, hx, hpos⟩ := h
  obtain rfl : r' = r := Option.some.inj (hr'.symm.trans hr)
  exact ⟨k, w, r', hw, hr', c, hx, ⟨hpos, hv⟩⟩

/-- O4: one byte fewer is queued; a producer's copy still over-estimates the occupancy. -/
theorem popAdvance (h : RingOk s b x (.loaded v)) (hr : (s.ring b).readIndex = some r) :
    RingOk (s.setReadIndex b (counterInc s.cfg r)) b x .idle := by
  obtain ⟨k, w, r', hw, hr', c, hx, ⟨hpos, -⟩⟩ := h
  obtain rfl : r' = r := Option.some.inj (hr'.symm.trans hr)
  have hle : counterSub s.cfg w (counterInc s.cfg r') ≤ counterSub s.cfg w r' :=
    counterSub_inc_right hpos ▸ Nat.le_succ _
  refine ⟨storageOk_congr (by simp) (by simp) k, w, _, by simpa using hw, by simp, countersOk_pop c hpos, ?_, trivial⟩
  refine (PushOk_congr (s := s) (by simp) (setReadIndex_memRead s b _)).mpr ?_
  cases x
  case idle => trivial
  case copied r2 => exact ⟨hx.1, hle.trans hx.2.1, hx.2.2⟩
  case room => exact lt_of_le_of_lt hle hx
  case stored u => exact ⟨lt_of_le_of_lt hle hx.1, hx.2⟩

end RingOk

end Sys2Proof.Machine
end

section
/-! SUPPORT. Every step keeps the invariant: the micro-steps of each agent keep what it and the other agent have established about the two
buffers, an INIT ends in empty buffers, and before the first INIT no operation gets past its first read. -/

namespace Sys2Proof.Machine

variable {s t : State}

/-- The callback goes on at another position, its mark kept. -/
theorem setIrqPos_of {c : IrqRun} (h : s.irq = some c) (q : IrqPos) :
    s.setIrqPos q = { s with irq := some { c with pos := q } } := by
  rw [State.setIrqPos, h]
  rfl

namespace BuffersOk

variable {xt xr : PushStage} {yt yr : PopStage}

/-- What is outside the buffers and the flag does not matter. -/
theorem congr (h : BuffersOk s xt yt xr yr) (hc : t.cfg = s.cfg) (h1 : t.tx = s.tx) (h2 : t.rx = s.rx)
    (ha : t.txArmed ≠ none) : BuffersOk t xt yt xr yr :=
  ⟨h.tx.congr hc h1, h.rx.congr hc h2, ha⟩

theorem txPushIdle (h : BuffersOk s xt yt xr yr) : BuffersOk s .idle yt xr yr := ⟨h.tx.pushIdle, h.rx, h.armed⟩

theorem txPopIdle (h : BuffersOk s xt yt xr yr) : BuffersOk s xt .idle xr yr := ⟨h.tx.popIdle, h.rx, h.armed⟩

theorem rxPushIdle (h : BuffersOk s xt yt xr yr) : BuffersOk s xt yt .idle yr := ⟨h.tx, h.rx.pushIdle, h.armed⟩

theorem rxPopIdle (h : BuffersOk s xt yt xr yr) : BuffersOk s xt yt xr .idle := ⟨h.tx, h.rx.popIdle, h.armed⟩

/-- ENQ is the producer of `tx`; it leaves `rx` alone. -/
theorem enqMicro {p : EnqPos} (h : BuffersOk s (fgPush (some (.enq p))) yt xr .idle)
    (e : fgMicro (.enq p) s = .next t) : BuffersOk t (fgPush t.fg) yt xr (fgPop t.fg) := by
  cases p
  case e1 =>
    obtain ⟨r, hr, rfl⟩ := enq_e1_next.mp e
    exact ⟨(h.tx.pushRead hr).congr rfl rfl, h.rx.congr rfl rfl, h.armed⟩
  case e2 =>
    obtain ⟨w, hw, rfl⟩ := enq_e2_next.mp e
    split
    · unfold enqFull
      split
      · exact h.txPushIdle.congr rfl rfl rfl h.armed
      · exact h.txPushIdle.congr rfl rfl rfl h.armed
    · next hne => exact ⟨(h.tx.pushTest hw hne).congr rfl rfl, h.rx.congr rfl rfl, h.armed⟩
  case e3 =>
    obtain ⟨w, hw, rfl⟩ := enq_e3_next.mp e
    exact ⟨(h.tx.pushStore hw).congr rfl rfl, h.rx.congr rfl rfl, h.armed⟩
  case e4 =>
    obtain ⟨w, hw, rfl⟩ := enq_e4_next.mp e
    exact ⟨(h.tx.pushAdvance hw).congr rfl rfl, h.rx.congr rfl rfl, h.armed⟩
  case e5 =>
    obtain ⟨a, ha, rfl⟩ := enq_e5_next.mp e
    exact h.congr rfl rfl rfl h.armed
  case e6 a =>
    obtain rfl := enq_e6_next.mp e
    refine h.congr (by simp) (by simp) (by simp) ?_
    cases a <;> simp [h.armed]
  case e7 =>
    obtain rfl := enq_e7_next.mp e
    exact h.congr (by simp) (by simp) (by simp) (by simpa using h.armed)
  case e8 =>
    obtain rfl := enq_e8_next.mp e
    exact h.congr rfl rfl rfl h.armed

/-- DEQ is a consumer of `rx`; it leaves `tx` alone. -/
theorem deqMicro {p : DeqPos} (h : BuffersOk s .idle yt xr (fgPop (some (.deq p))))
    (e : fgMicro (.deq p) s = .next t) : BuffersOk t (fgPush t.fg) yt xr (fgPop t.fg) := by
  cases p
  case q1 =>
    obtain ⟨w, hw, rfl⟩ := deq_q1_next.mp e
    exact ⟨h.tx.congr rfl rfl, (h.rx.popRead hw).congr rfl rfl, h.armed⟩
  case q2 =>
    obtain ⟨r, hr, rfl⟩ := deq_q2_next.mp e
    split
    · exact h.rxPopIdle.congr rfl rfl rfl h.armed
    · next hne => exact ⟨h.tx.congr rfl rfl, (h.rx.popCount hr hne).congr rfl rfl, h.armed⟩
  case q3 =>
    obtain ⟨r, v, hr, hv, rfl⟩ := deq_q3_next.mp e
    exact ⟨h.tx.congr rfl rfl, (h.rx.popLoad hr hv).congr rfl rfl, h.armed⟩
  case q4 =>
    obtain ⟨r, hr, rfl⟩ := deq_q4_next.mp e
    exact ⟨h.tx.congr rfl rfl, (h.rx.popAdvance hr).congr rfl rfl, h.armed⟩
  case q5 =>
    obtain rfl := deq_q5_next.mp e
    exact h.congr rfl rfl rfl h.armed

/-- RXCNT is a consumer of `rx` that only counts. -/
theorem rxcntMicro {p : RxcntPos} (h : BuffersOk s .idle yt xr (fgPop (some (.rxcnt p))))
    (e : fgMicro (.rxcnt p) s = .next t) : BuffersOk t (fgPush t.fg) yt xr (fgPop t.fg) := by
  cases p
  case n1 =>
    obtain ⟨w, hw, rfl⟩ := rxcnt_n1_next.mp e
    exact ⟨h.tx.congr rfl rfl, (h.rx.popRead hw).congr rfl rfl, h.armed⟩
  case n2 =>
    obtain ⟨r, hr, rfl⟩ := rxcnt_n2_next.mp e
    exact h.rxPopIdle.congr rfl rfl rfl h.armed

/-- BIND is neither. -/
theorem bindMicro {p : BindPos} (h : BuffersOk s .idle yt xr .idle) (e : fgMicro (.bind p) s = .next t) :
    BuffersOk t (fgPush t.fg) yt xr (fgPop t.fg) := by
  cases p
  case h1 => obtain rfl := bind_h1_next.mp e; exact h.congr rfl rfl rfl h.armed
  case h2 => obtain rfl := bind_h2_next.mp e; exact h.congr rfl rfl rfl h.armed

/-- TXRDY is a consumer of `tx`; it leaves `rx` alone. -/
theorem txrdyMicro {p : TxrdyPos} (h : BuffersOk s xt (irqPop (some ⟨.txrdy p, false⟩)) .idle yr)
    (hi : s.irq = some ⟨.txrdy p, false⟩) (e : irqMicro (.txrdy p) s = .next t) :
    BuffersOk t xt (irqPop t.irq) (irqPush t.irq) yr := by
  cases p
  case t1 =>
    obtain ⟨-, -, rfl⟩ := txrdy_t1_next.mp e
    rw [setIrqPos_of hi]
    exact h.congr rfl rfl rfl h.armed
  case t2 =>
    obtain ⟨-, w, hw, rfl⟩ := txrdy_t2_next.mp e
    rw [setIrqPos_of hi]
    exact ⟨(h.tx.popRead hw).congr rfl rfl, h.rx.congr rfl rfl, h.armed⟩
  case t3 =>
    obtain ⟨-, r, hr, rfl⟩ := txrdy_t3_next.mp e
    rw [setIrqPos_of hi]
    split
    · exact h.txPopIdle.congr rfl rfl rfl h.armed
    · next hne => exact ⟨(h.tx.popCount hr hne).congr rfl rfl, h.rx.congr rfl rfl, h.armed⟩
  case t4 =>
    obtain ⟨-, r, v, hr, hv, rfl⟩ := txrdy_t4_next.mp e
    rw [setIrqPos_of hi]
    exact ⟨(h.tx.popLoad hr hv).congr rfl rfl, h.rx.congr rfl rfl, h.armed⟩
  case t5 =>
    obtain ⟨-, rfl⟩ := txrdy_t5_next.mp e
    rw [setIrqPos_of (s := s.emit (.sendByte _)) hi]
    exact h.congr rfl rfl rfl h.armed
  case t6 =>
    obtain ⟨-, r, hr, rfl⟩ := txrdy_t6_next.mp e
    rw [setIrqPos_of (s := s.setReadIndex .tx _) hi]
    exact ⟨(h.tx.popAdvance hr).congr rfl rfl, h.rx.congr rfl rfl, h.armed⟩
  case t7 =>
    obtain ⟨-, w, hw, rfl⟩ := txrdy_t7_next.mp e
    rw [setIrqPos_of hi]
    exact ⟨(h.tx.popRead hw).congr rfl rfl, h.rx.congr rfl rfl, h.armed⟩
  case t8 =>
    obtain ⟨-, r, hr, rfl⟩ := txrdy_t8_next.mp e
    refine h.txPopIdle.congr (by simp) (by simp) (by simp) ?_
    rw [State.endCallback_txArmed, State.disarmIf_txArmed]
    split
    · simp
    · exact h.armed
  case t9 =>
    obtain ⟨-, rfl⟩ := txrdy_t9_next.mp e
    exact h.congr (by simp) (by simp) (by simp) (by simpa using h.armed)

/-- RXBYTE is the producer of `rx`; it leaves `tx` alone. -/
theorem rxbyteMicro {p : RxbytePos} (h : BuffersOk s xt .idle (irqPush (some ⟨.rxbyte p, false⟩)) yr)
    (hi : s.irq = some ⟨.rxbyte p, false⟩) (e : irqMicro (.rxbyte p) s = .next t) :
    BuffersOk t xt (irqPop t.irq) (irqPush t.irq) yr := by
  cases p
  case b1 =>
    obtain ⟨-, r, hr, rfl⟩ := rxbyte_b1_next.mp e
    rw [setIrqPos_of hi]
    exact ⟨h.tx.congr rfl rfl, (h.rx.pushRead hr).congr rfl rfl, h.armed⟩
  case b2 =>
    obtain ⟨-, w, hw, rfl⟩ := rxbyte_b2_next.mp e
    split
    · exact h.rxPushIdle.congr rfl rfl rfl h.armed
    · next hne =>
      rw [setIrqPos_of hi]
      exact ⟨h.tx.congr rfl rfl, (h.rx.pushTest hw hne).congr rfl rfl, h.armed⟩
  case b3 b =>
    obtain ⟨-, w, hw, rfl⟩ := rxbyte_b3_next.mp e
    rw [setIrqPos_of (s := s.memWrite .rx _ b) hi]
    exact ⟨h.tx.congr rfl rfl, (h.rx.pushStore hw).congr rfl rfl, h.armed⟩
  case b4 =>
    obtain ⟨-, w, hw, rfl⟩ := rxbyte_b4_next.mp e
    exact ⟨h.tx.congr rfl rfl, (h.rx.pushAdvance hw).congr rfl rfl, h.armed⟩

end BuffersOk

/-! ### Outside an INIT -/

theorem inInit_of_op {q : FgPos} (hf : s.fg = some q) (hq : q.op ≠ .init) : s.inInit = false := by
  cases q <;> simp_all [State.inInit, FgPos.op]

theorem inInit_congr (h : t.fg = s.fg) : t.inInit = s.inInit := by simp [State.inInit, h]

theorem not_raced (h : s.initRaced = false) {c : IrqRun} (hi : s.irq = some c) : s.inInit = false ∧ c.raced = false := by
  simpa [State.initRaced, hi] using h

/-- Before the first INIT, FG has an INIT about to begin, a BIND, or an operation whose first read is unwritten. -/
theorem fresh_fgMicro {q : FgPos} (h : fresh s) (hf : s.fg = some q) (e : fgMicro q s = .next t) :
    q = .init .i1 ∨ ∃ p, q = .bind p := by
  obtain ⟨h1, h2, h3, h4, -, hq, -⟩ := h
  rw [hf] at hq
  split at hq
  · contradiction
  · next heq => exact .inl (Option.some.inj heq)
  · next p heq => exact .inr ⟨p, Option.some.inj heq⟩
  · next b heq =>
    obtain rfl := Option.some.inj heq
    obtain ⟨r, hr, -⟩ := enq_e1_next.mp e
    exact absurd (h2.symm.trans hr) nofun
  · next heq =>
    obtain rfl := Option.some.inj heq
    obtain ⟨w, hw, -⟩ := deq_q1_next.mp e
    exact absurd (h3.symm.trans hw) nofun
  · next heq =>
    obtain rfl := Option.some.inj heq
    obtain ⟨w, hw, -⟩ := rxcnt_n1_next.mp e
    exact absurd (h3.symm.trans hw) nofun
  · exact hq.elim

/-- Before the first INIT a callback gets no further than T1. -/
theorem fresh_irqMicro {q : IrqPos} {m : Bool} (h : fresh s) (hi : s.irq = some ⟨q, m⟩) (e : irqMicro q s = .next t) :
    q = .txrdy .t1 := by
  obtain ⟨h1, h2, h3, h4, -, -, hq⟩ := h
  rw [hi] at hq
  split at hq
  · contradiction
  · next m' heq => cases heq; rfl
  · next m' heq =>
    cases heq
    obtain ⟨-, w, hw, -⟩ := txrdy_t2_next.mp e
    exact absurd (h1.symm.trans hw) nofun
  · next b m' heq =>
    cases heq
    obtain ⟨-, r, hr, -⟩ := rxbyte_b1_next.mp e
    exact absurd (h4.symm.trans hr) nofun
  · exact hq.elim

theorem inv_of_buffersOk (hn : t.inInit = false)
    (h : BuffersOk t (fgPush t.fg) (irqPop t.irq) (irqPush t.irq) (fgPop t.fg)) : t.Inv :=
  ((inv_and_settled_iff hn).mpr h).1

/-! ### Inside an INIT -/

theorem inv_iff_initialising (h : s.inInit = true) : s.Inv ↔ storageOk s .tx ∧ storageOk s .rx ∧ initialising s := by
  simp [State.Inv, h]

theorem inv_initialising (hi : s.Inv) (h : s.inInit = true) : initialising s := ((inv_iff_initialising h).mp hi).2.2

/-- A buffer is empty once both its counters are 0. -/
theorem ringOk_of_zero {b : Buf} (k : storageOk s b) (hw : (s.ring b).writeIndex = some 0)
    (hr : (s.ring b).readIndex = some 0) : RingOk s b .idle .idle :=
  ⟨k, 0, 0, hw, hr, ⟨by positivity, by positivity, by simp, by simp⟩, trivial, trivial⟩

/-- A callback that an INIT has overlapped has established nothing. -/
theorem stages_of_initialising (h : initialising s) : irqPop s.irq = .idle ∧ irqPush s.irq = .idle := by
  obtain ⟨h, -⟩ := h
  split at h
  · next heq => rw [heq]; exact ⟨rfl, rfl⟩
  · next c heq =>
    obtain ⟨q, m⟩ := c
    obtain rfl : m = true := h
    rw [heq]
    exact ⟨by simp [irqPop], by simp [irqPush]⟩

/-- INIT's micro-steps reset the elements one after the other; I6 leaves two empty buffers. -/
theorem inv_initMicro {p : InitPos} (hi : s.Inv) (hf : s.fg = some (.init p)) (e : fgMicro (.init p) s = .next t) :
    t.Inv := by
  obtain ⟨k1, k2, -⟩ := id hi
  cases p
  case i1 =>
    obtain rfl := init_i1_next.mp e
    refine (inv_iff_initialising rfl).mpr ⟨storageOk_congr rfl rfl k1, storageOk_congr rfl rfl k2, ?_, rfl⟩
    cases h : s.irq <;> simp [h]
  case i2 =>
    obtain rfl := init_i2_next.mp e
    obtain ⟨hr, hp⟩ := inv_initialising hi (by simp [State.inInit, hf])
    rw [hf] at hp
    exact (inv_iff_initialising rfl).mpr ⟨storageOk_congr rfl rfl k1, storageOk_congr rfl rfl k2, hr, hp, rfl⟩
  case i3 =>
    obtain rfl := init_i3_next.mp e
    obtain ⟨hr, hp⟩ := inv_initialising hi (by simp [State.inInit, hf])
    rw [hf] at hp
    obtain ⟨z1, z2⟩ := hp
    exact (inv_iff_initialising rfl).mpr ⟨storageOk_congr rfl rfl k1, storageOk_congr rfl rfl k2, hr, z1, z2, rfl⟩
  case i4 =>
    obtain rfl := init_i4_next.mp e
    obtain ⟨hr, hp⟩ := inv_initialising hi (by simp [State.inInit, hf])
    rw [hf] at hp
    obtain ⟨z1, z2, z3⟩ := hp
    exact (inv_iff_initialising rfl).mpr ⟨storageOk_congr rfl rfl k1, storageOk_congr rfl rfl k2, hr, z1, z2, z3, rfl⟩
  case i5 =>
    obtain rfl := init_i5_next.mp e
    obtain ⟨hr, hp⟩ := inv_initialising hi (by simp [State.inInit, hf])
    rw [hf] at hp
    obtain ⟨z1, z2, z3, z4⟩ := hp
    exact (inv_iff_initialising rfl).mpr
      ⟨storageOk_congr rfl rfl k1, storageOk_congr rfl rfl k2, hr, z1, z2, z3, z4, rfl⟩
  case i6 =>
    obtain rfl := init_i6_next.mp e
    have hI := inv_initialising hi (by simp [State.inInit, hf])
    obtain ⟨hpop, hpush⟩ := stages_of_initialising hI
    obtain ⟨hr, hp⟩ := hI
    rw [hf] at hp
    obtain ⟨z1, z2, z3, z4, za⟩ := hp
    have h : BuffersOk s .idle .idle .idle .idle :=
      ⟨ringOk_of_zero k1 z1 z2, ringOk_of_zero k2 z3 z4, by simp [za]⟩
    refine inv_of_buffersOk rfl ?_
    rw [State.setFg_irq, State.emitIfBound_setRxEn_irq, hpop, hpush]
    exact h.congr (by simp) (by simp) (by simp) (by simpa using h.armed)
  case i7 =>
    obtain rfl := init_i7_next.mp e
    have hn : s.inInit = false := by simp [State.inInit, hf]
    have hs : settled s := ((inv_iff hn).mp hi).2.2.resolve_left fun c => by
      obtain ⟨-, -, -, -, -, hq, -⟩ := c
      rw [hf] at hq
      exact hq
    have h := (inv_and_settled_iff hn).mp ⟨hi, hs⟩
    rw [hf] at h
    exact inv_of_buffersOk rfl (h.congr rfl rfl rfl h.armed)

/-! ### Every micro-step -/

/-- BIND before the first INIT changes nothing the invariant is about. -/
theorem fresh_bindMicro {p : BindPos} (h : fresh s) (e : fgMicro (.bind p) s = .next t) : fresh t := by
  obtain ⟨h1, h2, h3, h4, h5, -, hi⟩ := h
  cases p
  case h1 => obtain rfl := bind_h1_next.mp e; exact ⟨h1, h2, h3, h4, h5, trivial, hi⟩
  case h2 => obtain rfl := bind_h2_next.mp e; exact ⟨h1, h2, h3, h4, h5, trivial, hi⟩

theorem bindMicro_rings {p : BindPos} (e : fgMicro (.bind p) s = .next t) : t.tx = s.tx ∧ t.rx = s.rx := by
  obtain ⟨u, x, hu, rfl, -⟩ := fgMicro_effect e
  cases hu <;> exact ⟨rfl, rfl⟩

theorem inv_fgMicro {q : FgPos} (hi : s.Inv) (hf : s.fg = some q) (e : fgMicro q s = .next t) : t.Inv := by
  by_cases hq : q.op = .init
  · cases q <;> simp only [FgPos.op, reduceCtorEq] at hq
    exact inv_initMicro hi hf e
  · have hn : s.inInit = false := inInit_of_op hf hq
    have hirq : t.irq = s.irq := by
      obtain ⟨u, x, hu, rfl, -⟩ := fgMicro_effect e
      cases hu <;> simp_all [FgPos.op]
    have hn' : t.inInit = false := by
      obtain ⟨u, x, -, rfl, hx⟩ := fgMicro_effect e
      cases x
      case none => rfl
      case some q' => exact inInit_of_op rfl (hx.1 ▸ hq)
    obtain ⟨k1, k2, c | c⟩ := (inv_iff hn).mp hi
    · obtain rfl | ⟨p, rfl⟩ := fresh_fgMicro c hf e
      · exact absurd rfl hq
      · obtain ⟨h1, h2⟩ := bindMicro_rings e
        have hc := (fgMicro_keeps e).cfg
        exact (inv_iff hn').mpr
          ⟨storageOk_of_rings hc h1 h2 k1, storageOk_of_rings hc h1 h2 k2, .inl (fresh_bindMicro c e)⟩
    · have h := (inv_and_settled_iff hn).mp ⟨hi, c⟩
      refine inv_of_buffersOk hn' ?_
      rw [hirq]
      rw [hf] at h
      cases q
      case init => exact absurd rfl hq
      case bind => exact h.bindMicro e
      case enq => exact h.enqMicro e
      case deq => exact h.deqMicro e
      case rxcnt => exact h.rxcntMicro e

theorem inv_irqMicro {c : IrqRun} (hi : s.Inv) (hc : s.irq = some c) (e : irqMicro c.pos s = .next t) : t.Inv := by
  obtain ⟨hn, hm⟩ := not_raced (irqMicro_eq_next.mp e).1 hc
  obtain ⟨q, m⟩ := c
  obtain rfl : m = false := hm
  have hfg : t.fg = s.fg := (irqMicro_keeps e).fg
  have hn' : t.inInit = false := (inInit_congr hfg).trans hn
  obtain ⟨k1, k2, hs | hs⟩ := (inv_iff hn).mp hi
  · obtain rfl := fresh_irqMicro hs hc e
    obtain ⟨-, -, rfl⟩ := txrdy_t1_next.mp e
    rw [setIrqPos_of hc] at hn' ⊢
    obtain ⟨h1, h2, h3, h4, h5, hq, -⟩ := hs
    exact (inv_iff hn').mpr
      ⟨storageOk_of_rings rfl rfl rfl k1, storageOk_of_rings rfl rfl rfl k2, .inl ⟨h1, h2, h3, h4, h5, hq, trivial⟩⟩
  · have h := (inv_and_settled_iff hn).mp ⟨hi, hs⟩
    refine inv_of_buffersOk hn' ?_
    rw [hfg]
    rw [hc] at h
    cases q
    case txrdy => exact h.txrdyMicro hc e
    case rxbyte => exact h.rxbyteMicro hc e

theorem inv_microStep {p : Port} (hi : s.Inv) (e : microStep p s = .next t) : t.Inv := by
  obtain ⟨-, ⟨-, ⟨q, hq, e⟩ | ⟨-, rfl⟩⟩ | ⟨-, ⟨c, hc, e⟩ | ⟨-, rfl⟩⟩⟩ := microStep_eq_next.mp e
  · exact inv_fgMicro hi hq e
  · exact hi
  · exact inv_irqMicro hi hc e
  · exact hi

/-! ### An operation begins -/

@[simp] theorem startAt_tx (i : Instr) (s : State) : (startAt i s).tx = s.tx := by cases i <;> rfl

@[simp] theorem startAt_rx (i : Instr) (s : State) : (startAt i s).rx = s.rx := by cases i <;> rfl

@[simp] theorem startAt_txArmed (i : Instr) (s : State) : (startAt i s).txArmed = s.txArmed := by cases i <;> rfl

/-- Outside an INIT an operation may begin: no agent has established anything new, and it may begin before the first INIT. -/
theorem inv_begin (hi : s.Inv) (hn : s.inInit = false) (hc : t.cfg = s.cfg) (h1 : t.tx = s.tx) (h2 : t.rx = s.rx)
    (ha : t.txArmed = s.txArmed) (hn' : t.inInit = false) (hfresh : fresh s → fresh t)
    (hfg : fgPush t.fg = fgPush s.fg ∧ fgPop t.fg = fgPop s.fg)
    (hirq : irqPop t.irq = irqPop s.irq ∧ irqPush t.irq = irqPush s.irq) : t.Inv := by
  obtain ⟨k1, k2, hs | hs⟩ := (inv_iff hn).mp hi
  · exact (inv_iff hn').mpr ⟨storageOk_of_rings hc h1 h2 k1, storageOk_of_rings hc h1 h2 k2, .inl (hfresh hs)⟩
  · have h := (inv_and_settled_iff hn).mp ⟨hi, hs⟩
    refine inv_of_buffersOk hn' ?_
    rw [hfg.1, hfg.2, hirq.1, hirq.2]
    exact h.congr hc h1 h2 (ha ▸ h.armed)

theorem inv_startAt_fg {i : Instr} (hp : i.port = .fg) (hf : s.fg = none) (hi : s.Inv) : (startAt i s).Inv := by
  have hirq : (startAt i s).irq = s.irq := startAt_irq_of_fg hp
  refine inv_begin hi (by simp [State.inInit, hf]) (by simp) (by simp) (by simp) (by simp) ?_ ?_ ?_ (by simp [hirq])
  · cases i <;> cases hp <;> rfl
  · rintro ⟨h1, h2, h3, h4, h5, -, hq⟩
    cases i <;> cases hp <;> exact ⟨h1, h2, h3, h4, h5, trivial, hq⟩
  · rw [hf]
    cases i <;> cases hp <;> exact ⟨rfl, rfl⟩

/-- A callback cannot begin inside an INIT: there its first micro-step is a fault (60_exceptions.md R153 F3). -/
theorem inv_startAt_irq {i : Instr} (hp : i.port = .irq) (hf : s.irq = none) (hi : s.Inv)
    (e : microStep .irq (startAt i s) = .next t) : (startAt i s).Inv := by
  have hfg : (startAt i s).fg = s.fg := by cases i <;> cases hp <;> rfl
  obtain ⟨-, ⟨h, -⟩ | ⟨-, ⟨c, hc, e⟩ | ⟨hc, -⟩⟩⟩ := microStep_eq_next.mp e
  · cases h
  · obtain ⟨hn, -⟩ := not_raced (irqMicro_eq_next.mp e).1 hc
    refine inv_begin hi ((inInit_congr hfg).symm.trans hn) (by simp) (by simp) (by simp) (by simp) hn ?_ (by simp [hfg]) ?_
    · rintro ⟨h1, h2, h3, h4, h5, hq, -⟩
      cases i <;> cases hp <;> exact ⟨h1, h2, h3, h4, h5, hq, trivial⟩
    · rw [hf]
      cases i <;> cases hp <;> exact ⟨rfl, rfl⟩
  · cases i <;> cases hp <;> cases hc

theorem inv_startAt {i : Instr} (hf : s.inFlight i.port = false) (hi : s.Inv)
    (e : microStep i.port (startAt i s) = .next t) : (startAt i s).Inv := by
  cases hp : i.port
  case fg => exact inv_startAt_fg hp (by simpa [hp] using hf) hi
  case irq => exact inv_startAt_irq hp (by simpa [hp] using hf) hi (hp ▸ e)

end Sys2Proof.Machine

open Sys2Proof Sys2Proof.Machine

/-- Settles O36: what is kept by taking turns and words, starting operations and every micro-step is kept by every step. -/
theorem invKept : Obligations.InvKept := by
  unfold Obligations.InvKept
  intro s t hi h
  refine step_keeps (P := State.Inv) ?drop ?words ?respond ?start ?micro hi h
  case drop => intro u hu; exact Inv_congr (by simp) (by simp) (by simp) (by simp) (by simp) (by simp) hu
  case words => intro u p ws hu; cases p <;> exact Inv_congr rfl rfl rfl rfl rfl rfl hu
  case respond => intro u hu; exact Inv_congr rfl rfl rfl rfl rfl rfl hu
  case start => intro u i v hf hu e; exact inv_startAt hf hu e
  case micro => intro p u v hu e; exact inv_microStep hu e

end

section
/-! SUPPORT. Who may change which register (10_state.md R20, R22, R24, R25, R28, R30, R32), read off the updates a micro-step can make; and that an
operation run whole is in flight no more, unless ENQ is held. -/

namespace Sys2Proof.Machine

variable {s t u : State} {p : Port} {o : Op}

/-! ### One micro-step -/

/-- What an operation leaves as it is, by the registers it is no writer of (10_state.md R20, column "written by"; R24, R25, R28). -/
structure Frame (o : Op) (s t : State) : Prop where
  cfg : t.cfg = s.cfg
  fgIn : t.fgIn = s.fgIn
  irqIn : t.irqIn = s.irqIn
  turns : t.turns = s.turns
  tick : t.tick = s.tick
  hooks : o ≠ .bind → t.hooks = s.hooks
  txWrite : o ≠ .init → o ≠ .enq → t.tx.writeIndex = s.tx.writeIndex
  txRead : o ≠ .init → o ≠ .txrdy → t.tx.readIndex = s.tx.readIndex
  rxWrite : o ≠ .init → o ≠ .rxbyte → t.rx.writeIndex = s.rx.writeIndex
  rxRead : o ≠ .init → o ≠ .deq → t.rx.readIndex = s.rx.readIndex
  txArmed : o ≠ .init → o ≠ .enq → o ≠ .txrdy → t.txArmed = s.txArmed
  hookOut : o ≠ .init → o ≠ .enq → o ≠ .txrdy → t.hookOut = s.hookOut
  txEn : o ≠ .enq → o ≠ .txrdy → t.txEn = s.txEn
  rxEn : o ≠ .init → t.rxEn = s.rxEn
  rspOut : o.port = .irq → t.rspOut = s.rspOut
  fg : o.port = .irq → t.fg = s.fg
  irq : o.port = .fg → o ≠ .init → t.irq = s.irq

theorem Frame.refl (o : Op) (s : State) : Frame o s s := by constructor <;> intros <;> rfl

theorem Frame.trans (h : Frame o s t) (h' : Frame o t u) : Frame o s u where
  cfg := h'.cfg.trans h.cfg
  fgIn := h'.fgIn.trans h.fgIn
  irqIn := h'.irqIn.trans h.irqIn
  turns := h'.turns.trans h.turns
  tick := h'.tick.trans h.tick
  hooks h1 := (h'.hooks h1).trans (h.hooks h1)
  txWrite h1 h2 := (h'.txWrite h1 h2).trans (h.txWrite h1 h2)
  txRead h1 h2 := (h'.txRead h1 h2).trans (h.txRead h1 h2)
  rxWrite h1 h2 := (h'.rxWrite h1 h2).trans (h.rxWrite h1 h2)
  rxRead h1 h2 := (h'.rxRead h1 h2).trans (h.rxRead h1 h2)
  txArmed h1 h2 h3 := (h'.txArmed h1 h2 h3).trans (h.txArmed h1 h2 h3)
  hookOut h1 h2 h3 := (h'.hookOut h1 h2 h3).trans (h.hookOut h1 h2 h3)
  txEn h1 h2 := (h'.txEn h1 h2).trans (h.txEn h1 h2)
  rxEn h1 := (h'.rxEn h1).trans (h.rxEn h1)
  rspOut h1 := (h'.rspOut h1).trans (h.rspOut h1)
  fg h1 := (h'.fg h1).trans (h.fg h1)
  irq h1 h2 := (h'.irq h1 h2).trans (h.irq h1 h2)

/-- Each update of FG is of a register its operation writes, and FG's position is FG's. -/
theorem FgEffect.frame {q : FgPos} (h : FgEffect s q u) (x : Option FgPos) : Frame q.op s (u.setFg x) := by
  cases h
  case nothing => constructor <;> simp [FgPos.port_op]
  case answer => constructor <;> simp [FgPos.port_op]
  all_goals constructor <;> simp [FgPos.op, Op.port]

/-- Each update of a callback is of a register its operation writes. -/
theorem IrqEffect.frame {q : IrqPos} (h : IrqEffect s q u) : Frame q.op s u := by
  cases h
  case nothing => exact Frame.refl _ _
  all_goals constructor <;> simp [IrqPos.op, Op.port]

theorem IrqEffect.irq {q : IrqPos} (h : IrqEffect s q u) : u.irq = s.irq := by cases h <;> rfl

theorem frame_endCallback {q : IrqPos} (s : State) : Frame q.op s s.endCallback := by
  constructor <;> simp [IrqPos.port_op]

theorem frame_setIrqPos {q : IrqPos} (s : State) (q' : IrqPos) : Frame q.op s (s.setIrqPos q') := by
  constructor <;> simp [IrqPos.port_op]

/-- The operation an agent has in flight. -/
def State.opAt (s : State) : Port → Option Op
  | .fg => s.fg.map FgPos.op
  | .irq => s.irq.map fun c => c.pos.op

/-- The micro-steps an agent's operation in flight has left at most (41_foreground.md R117, 42_interrupt.md R137). -/
def State.stepsLeft (s : State) : Port → Nat
  | .fg => s.fg.elim 0 FgPos.stepsLeft
  | .irq => s.irq.elim 0 fun c => c.pos.stepsLeft

theorem FgPos.stepsLeft_pos (q : FgPos) : 0 < q.stepsLeft := by
  unfold FgPos.stepsLeft
  split <;> decide

theorem IrqPos.stepsLeft_pos (q : IrqPos) : 0 < q.stepsLeft := by
  unfold IrqPos.stepsLeft
  split <;> decide

theorem stepsLeft_pos (ho : s.opAt p = some o) : 0 < s.stepsLeft p := by
  cases p
  · obtain ⟨q, hf, -⟩ := Option.map_eq_some_iff.mp ho
    simpa [State.stepsLeft, hf] using q.stepsLeft_pos
  · obtain ⟨c, hi, -⟩ := Option.map_eq_some_iff.mp ho
    simpa [State.stepsLeft, hi] using c.pos.stepsLeft_pos

theorem opAt_isSome : (s.opAt p).isSome = s.inFlight p := by cases p <;> simp [State.opAt]

/-- FG's micro-step keeps to its operation's frame, and ends it or goes on with it, nearer to its end unless ENQ is held. -/
theorem microStep_fg_op {q : FgPos} (hf : s.fg = some q) (h : microStep .fg s = .next t) :
    Frame q.op s t ∧ (t.fg = none ∨ t.opAt .fg = some q.op ∧ (t.stepsLeft .fg < q.stepsLeft ∨ t.heldAtE1 = true)) := by
  obtain ⟨-, ⟨-, ⟨q', hq, h⟩ | ⟨hq, -⟩⟩ | ⟨h, -⟩⟩ := microStep_eq_next.mp h
  · obtain rfl : q' = q := Option.some.inj (hq.symm.trans hf)
    obtain ⟨u, x, hu, rfl, hx⟩ := fgMicro_effect h
    refine ⟨hu.frame x, ?_⟩
    cases x
    case none => exact .inl rfl
    case some x =>
      obtain ⟨ho, hlt | ⟨b, rfl⟩⟩ := hx
      · exact .inr ⟨congrArg some ho, .inl hlt⟩
      · exact .inr ⟨congrArg some ho, .inr rfl⟩
  · cases hq.symm.trans hf
  · cases h

/-- So does a callback's. -/
theorem microStep_irq_op {c : IrqRun} (hi : s.irq = some c) (h : microStep .irq s = .next t) :
    Frame c.pos.op s t ∧ (t.irq = none ∨ t.opAt .irq = some c.pos.op ∧ t.stepsLeft .irq < c.pos.stepsLeft) := by
  obtain ⟨-, ⟨h, -⟩ | ⟨-, ⟨c', hc, h⟩ | ⟨hc, -⟩⟩⟩ := microStep_eq_next.mp h
  · cases h
  · obtain rfl : c' = c := Option.some.inj (hc.symm.trans hi)
    obtain ⟨-, u, hu, rfl | ⟨q', rfl, ho, hlt⟩⟩ := irqMicro_effect h
    · exact ⟨hu.frame.trans (frame_endCallback u), .inl rfl⟩
    · have hui : u.irq = some c' := hu.irq.trans hc
      refine ⟨hu.frame.trans (frame_setIrqPos u q'), .inr ?_⟩
      rw [setIrqPos_of hui]
      exact ⟨congrArg some ho, hlt⟩
  · cases hc.symm.trans hi

/-- A micro-step keeps to the frame of the operation in flight. -/
theorem microStep_frame (ho : s.opAt p = some o) (h : microStep p s = .next t) : Frame o s t := by
  cases p
  · obtain ⟨q, hf, rfl⟩ := Option.map_eq_some_iff.mp ho
    exact (microStep_fg_op hf h).1
  · obtain ⟨c, hi, rfl⟩ := Option.map_eq_some_iff.mp ho
    exact (microStep_irq_op hi h).1

/-- It ends the operation, or goes on with it, nearer to its end unless ENQ is held at E1. -/
theorem microStep_onward (ho : s.opAt p = some o) (h : microStep p s = .next t) :
    t.opAt p = none ∨ t.opAt p = some o ∧ (t.stepsLeft p < s.stepsLeft p ∨ p = .fg ∧ t.heldAtE1 = true) := by
  cases p
  · obtain ⟨q, hf, rfl⟩ := Option.map_eq_some_iff.mp ho
    refine (microStep_fg_op hf h).2.imp (fun h => by simp [State.opAt, h]) (And.imp_right ?_)
    exact Or.imp (fun h => by simpa [State.stepsLeft, hf] using h) fun h => ⟨rfl, h⟩
  · obtain ⟨c, hi, rfl⟩ := Option.map_eq_some_iff.mp ho
    refine (microStep_irq_op hi h).2.imp (fun h => by simp [State.opAt, h]) (And.imp_right ?_)
    exact fun h => .inl (by simpa [State.stepsLeft, hi] using h)

/-! ### A whole operation -/

/-- A run of enough micro-steps keeps to the frame of the operation in flight and ends it, unless ENQ is held. -/
theorem runMicro_op {n : Nat} (ho : s.opAt p = some o) (hn : s.stepsLeft p ≤ n) (h : runMicro p n s = .next t) :
    Frame o s t ∧ (t.inFlight p = false ∨ t.opAt p = some o ∧ p = .fg ∧ t.heldAtE1 = true) := by
  induction n generalizing s with
  | zero => exact absurd (stepsLeft_pos ho) (by omega)
  | succ n ih =>
    have hf : s.inFlight p = true := by rw [← opAt_isSome, ho]; rfl
    simp only [runMicro, hf, if_true] at h
    obtain ⟨u, hu, h⟩ := andThen_eq_next.mp h
    have hfr := microStep_frame ho hu
    have hon := microStep_onward ho hu
    split at h
    · next hh =>
      cases h
      exact ⟨hfr, hon.imp (fun hnone => by rw [← opAt_isSome, hnone]; rfl) fun ⟨ho', _⟩ => ⟨ho', hh⟩⟩
    · next hh =>
      obtain hnone | ⟨ho', hlt⟩ := hon
      · have hidle : u.inFlight p = false := by rw [← opAt_isSome, hnone]; rfl
        rw [runMicro_idle hidle] at h
        cases h
        exact ⟨hfr, .inl hidle⟩
      · obtain ⟨hfr', he⟩ := ih ho' (by have := hlt.resolve_right hh; omega) h
        exact ⟨hfr.trans hfr', he⟩

theorem startAt_opAt (i : Instr) (s : State) : (startAt i s).opAt i.port = some (opOf i) := by cases i <;> rfl

theorem startAt_stepsLeft (i : Instr) (s : State) : (startAt i s).stepsLeft i.port ≤ maxMicro := by
  cases i <;> exact Nat.le_of_ble_eq_true rfl

/-- To begin an operation changes only what its agent has in flight. -/
theorem frame_startAt (i : Instr) (s : State) : Frame (opOf i) s (startAt i s) := by
  cases i <;> constructor <;> simp [startAt, opOf, Op.port]

/-- Only ENQ can be held at E1. -/
theorem op_of_heldAtE1 (h : s.heldAtE1 = true) (ho : s.opAt .fg = some o) : o = .enq := by
  obtain ⟨q, hf, rfl⟩ := Option.map_eq_some_iff.mp ho
  unfold State.heldAtE1 at h
  split at h
  · next heq => obtain rfl := Option.some.inj (hf.symm.trans heq); rfl
  · cases h

/-- An operation keeps to its frame; its agent has nothing in flight before it, and nothing after it unless it is ENQ. -/
theorem exec_frame {i : Instr} (h : exec i s = .next t) :
    Frame (opOf i) s t ∧ s.inFlight i.port = false ∧ (opOf i ≠ .enq → t.inFlight i.port = false) := by
  obtain ⟨hf, -, h⟩ := exec_first h
  obtain ⟨hfr, he⟩ := runMicro_op (startAt_opAt i s) (startAt_stepsLeft i s) h
  refine ⟨(frame_startAt i s).trans hfr, hf, fun hne => he.resolve_right ?_⟩
  rintro ⟨ho, hp, hh⟩
  exact hne (op_of_heldAtE1 hh (hp ▸ ho))

theorem opOf_ne_init {i : Instr} (h : i ≠ .init) : opOf i ≠ .init := by cases i <;> simp_all [opOf]

theorem opOf_ne_bind {i : Instr} (h : ∀ m, i ≠ .bind m) : opOf i ≠ .bind := by cases i <;> simp_all [opOf]

theorem opOf_ne_enq {i : Instr} (h : ∀ b, i ≠ .enq b) : opOf i ≠ .enq := by cases i <;> simp_all [opOf]

theorem opOf_ne_deq {i : Instr} (h : i ≠ .deq) : opOf i ≠ .deq := by cases i <;> simp_all [opOf]

theorem opOf_ne_txrdy {i : Instr} (h : i ≠ .txrdy) : opOf i ≠ .txrdy := by cases i <;> simp_all [opOf]

theorem opOf_ne_rxbyte {i : Instr} (h : ∀ b, i ≠ .rxbyte b) : opOf i ≠ .rxbyte := by cases i <;> simp_all [opOf]

/-- FG is where it was after any operation but ENQ: idle after its own, untouched by a callback. -/
theorem exec_fg {i : Instr} (h : exec i s = .next t) (hne : opOf i ≠ .enq) : t.fg = s.fg := by
  obtain ⟨hfr, hs, ht⟩ := exec_frame h
  cases hp : i.port
  · have ht := ht hne
    simp only [hp, State.inFlight_fg, Option.isSome_eq_false_iff, Option.isNone_iff_eq_none] at hs ht
    rw [hs, ht]
  · exact hfr.fg ((port_opOf i).trans hp)

/-- IRQ is where it was after any operation but INIT: idle after a callback, untouched by FG's others. -/
theorem exec_irq {i : Instr} (h : exec i s = .next t) (hne : opOf i ≠ .init) : t.irq = s.irq := by
  obtain ⟨hfr, hs, ht⟩ := exec_frame h
  cases hp : i.port
  · exact hfr.irq ((port_opOf i).trans hp) hne
  · have ht := ht fun he => by rw [← port_opOf, he] at hp; cases hp
    simp only [hp, State.inFlight_irq, Option.isSome_eq_false_iff, Option.isNone_iff_eq_none] at hs ht
    rw [hs, ht]

/-! ### The counters, the flag and the hooks -/

/-- What FG may do to a counter in one micro-step: leave it, advance it, or reset it in an INIT (10_state.md R22). -/
theorem FgEffect.counters {q : FgPos} (h : FgEffect s q u) (b : Buf) :
    ((u.ring b).writeIndex = (s.ring b).writeIndex ∨
      (u.ring b).writeIndex = (s.ring b).writeIndex.map (counterInc s.cfg) ∨
      (u.ring b).writeIndex = some 0 ∧ q.op = .init) ∧
    ((u.ring b).readIndex = (s.ring b).readIndex ∨
      (u.ring b).readIndex = (s.ring b).readIndex.map (counterInc s.cfg) ∨
      (u.ring b).readIndex = some 0 ∧ q.op = .init) := by
  cases h <;> cases b <;> simp_all [FgPos.op]

theorem IrqEffect.counters {q : IrqPos} (h : IrqEffect s q u) (b : Buf) :
    ((u.ring b).writeIndex = (s.ring b).writeIndex ∨
      (u.ring b).writeIndex = (s.ring b).writeIndex.map (counterInc s.cfg)) ∧
    ((u.ring b).readIndex = (s.ring b).readIndex ∨
      (u.ring b).readIndex = (s.ring b).readIndex.map (counterInc s.cfg)) := by
  cases h <;> cases b <;> simp_all

/-- Who writes `tx_armed` and HOOKS in FG (10_state.md R24, R25). -/
theorem FgEffect.flags {q : FgPos} (h : FgEffect s q u) :
    (u.txArmed = s.txArmed ∨ (q = .enq (.e6 false) ∧ u.txArmed = some true) ∨ (q = .init .i5 ∧ u.txArmed = some false)) ∧
    (u.hooks = s.hooks ∨ q = .bind (.h1 u.hooks)) := by
  cases h <;> simp

theorem IrqEffect.flags {q : IrqPos} (h : IrqEffect s q u) :
    u.txArmed = s.txArmed ∨ ∃ w, q = .txrdy (.t8 w) ∧ u.txArmed = some false := by
  cases h <;> simp

/-- A micro-step does nothing, or is one of the updates of its agent and then changes only where that agent is. -/
theorem microStep_effect (h : microStep p s = .next t) :
    t = s ∨ (p = .fg ∧ ∃ q u x, s.fg = some q ∧ FgEffect s q u ∧ t = u.setFg x) ∨
      (p = .irq ∧ ∃ q u y, s.irq.map IrqRun.pos = some q ∧ IrqEffect s q u ∧ t = { u with irq := y }) := by
  obtain ⟨-, ⟨hp, ⟨q, hq, h⟩ | ⟨-, rfl⟩⟩ | ⟨hp, ⟨c, hc, h⟩ | ⟨-, rfl⟩⟩⟩ := microStep_eq_next.mp h
  · obtain ⟨u, x, hu, rfl, -⟩ := fgMicro_effect h
    exact .inr (.inl ⟨hp, q, u, x, hq, hu, rfl⟩)
  · exact .inl rfl
  · obtain ⟨-, u, hu, rfl | ⟨q', rfl, -⟩⟩ := irqMicro_effect h
    · exact .inr (.inr ⟨hp, _, u, _, congrArg (Option.map IrqRun.pos) hc, hu, rfl⟩)
    · exact .inr (.inr ⟨hp, _, u, _, congrArg (Option.map IrqRun.pos) hc, hu, rfl⟩)
  · exact .inl rfl

theorem initInFlight_of_op {q : FgPos} (hf : s.fg = some q) : s.initInFlight = true ↔ q.op = .init := by
  cases q <;> simp [State.initInFlight, hf, FgPos.op]

/-- A micro-step leaves the other agent's counters (20_memory.md R60), an INIT's apart. -/
theorem microStep_otherCounters (h : microStep p s = .next t) :
    (p = .fg → s.initInFlight = false → t.tx.readIndex = s.tx.readIndex ∧ t.rx.writeIndex = s.rx.writeIndex) ∧
    (p = .irq → t.tx.writeIndex = s.tx.writeIndex ∧ t.rx.readIndex = s.rx.readIndex) := by
  obtain rfl | ⟨rfl, q, u, x, hq, hu, rfl⟩ | ⟨rfl, q, u, y, -, hu, rfl⟩ := microStep_effect h
  · exact ⟨fun _ _ => ⟨rfl, rfl⟩, fun _ => ⟨rfl, rfl⟩⟩
  · refine ⟨fun _ hi => ?_, nofun⟩
    have hi : q.op ≠ .init := fun ho => by simp [(initInFlight_of_op hq).mpr ho] at hi
    have hp := q.port_op
    exact ⟨(hu.frame x).txRead hi fun ho => by simp [ho, Op.port] at hp,
      (hu.frame x).rxWrite hi fun ho => by simp [ho, Op.port] at hp⟩
  · refine ⟨nofun, fun _ => ?_⟩
    cases hu <;> exact ⟨rfl, rfl⟩

/-! ### The collaborator's enables (10_state.md R28) -/

theorem enablesFollow_emit (e : HookEvent) (h : s.enablesFollow) : (s.emit e).enablesFollow := by
  obtain ⟨h1, h2⟩ := h
  cases e
  case sendByte => exact ⟨by simpa [lastTxEn] using h1, by simpa [lastRxEn] using h2⟩
  case setRxEn => exact ⟨by simpa [lastTxEn] using h1, by simp [lastRxEn]⟩
  case setTxEn => exact ⟨by simp [lastTxEn], by simpa [lastRxEn] using h2⟩

theorem enablesFollow_congr (h1 : t.txEn = s.txEn) (h2 : t.rxEn = s.rxEn) (h3 : t.hookOut = s.hookOut)
    (h : s.enablesFollow) : t.enablesFollow := by
  rw [State.enablesFollow, h1, h2, h3]
  exact h

/-- Only an emitted event moves the enables, and it moves the history along. -/
theorem enablesFollow_microStep (hs : s.enablesFollow) (h : microStep p s = .next t) : t.enablesFollow := by
  obtain rfl | ⟨-, q, u, x, -, hu, rfl⟩ | ⟨-, q, u, y, -, hu, rfl⟩ := microStep_effect h
  · exact hs
  · refine enablesFollow_congr (s := u) rfl rfl rfl ?_
    cases hu
    case enableRx => exact enablesFollow_emit _ hs
    case kick => exact enablesFollow_emit _ hs
    all_goals exact enablesFollow_congr rfl rfl rfl hs
  · refine enablesFollow_congr (s := u) rfl rfl rfl ?_
    cases hu
    case send => exact enablesFollow_emit _ hs
    case disableTx => exact enablesFollow_emit _ hs
    all_goals exact enablesFollow_congr rfl rfl rfl hs

end Sys2Proof.Machine

open Sys2Proof Sys2Proof.Machine

/-- Settles O30: each micro-step keeps to the frame of the operation in flight, and so the operation does from its beginning to its end. -/
theorem frameRegisters : Obligations.FrameRegisters := by
  unfold Obligations.FrameRegisters
  intro i s t h
  obtain ⟨hfr, -, -⟩ := exec_frame h
  exact ⟨hfr.cfg, hfr.fgIn, hfr.irqIn, hfr.turns, hfr.tick, fun h1 => hfr.hooks (opOf_ne_bind h1),
    fun h1 h2 => hfr.txWrite (opOf_ne_init h1) (opOf_ne_enq h2), fun h1 h2 => hfr.txRead (opOf_ne_init h1) (opOf_ne_txrdy h2),
    fun h1 h2 => hfr.rxWrite (opOf_ne_init h1) (opOf_ne_rxbyte h2), fun h1 h2 => hfr.rxRead (opOf_ne_init h1) (opOf_ne_deq h2),
    fun h1 h2 h3 => hfr.txArmed (opOf_ne_init h1) (opOf_ne_enq h2) (opOf_ne_txrdy h3),
    fun h1 h2 h3 => hfr.hookOut (opOf_ne_init h1) (opOf_ne_enq h2) (opOf_ne_txrdy h3),
    fun h1 h2 => hfr.txEn (opOf_ne_enq h1) (opOf_ne_txrdy h2), fun h1 => hfr.rxEn (opOf_ne_init h1),
    fun hp => hfr.rspOut ((port_opOf i).trans hp), fun h1 => exec_fg h (opOf_ne_enq h1), fun h1 => exec_irq h (opOf_ne_init h1)⟩

/-- Settles O32, by the updates a micro-step can make. -/
theorem countersOnlyAdvance : Obligations.CountersOnlyAdvance := by
  unfold Obligations.CountersOnlyAdvance
  intro p s t h
  refine ⟨fun b => ?_, microStep_otherCounters h⟩
  obtain rfl | ⟨rfl, q, u, x, hq, hu, rfl⟩ | ⟨rfl, q, u, y, -, hu, rfl⟩ := microStep_effect h
  · exact ⟨.inl rfl, .inl rfl⟩
  · rw [initInFlight_of_op hq]
    obtain ⟨hw, hr⟩ := hu.counters b
    exact ⟨hw.imp_right (.imp_right fun ⟨h0, ho⟩ => ⟨h0, rfl, ho⟩), hr.imp_right (.imp_right fun ⟨h0, ho⟩ => ⟨h0, rfl, ho⟩)⟩
  · obtain ⟨hw, hr⟩ := hu.counters b
    exact ⟨hw.imp_right .inl, hr.imp_right .inl⟩

/-- Settles O33, by the updates a micro-step can make. -/
theorem flagWriters : Obligations.FlagWriters := by
  unfold Obligations.FlagWriters
  intro p s t h
  obtain rfl | ⟨rfl, q, u, x, hq, hu, rfl⟩ | ⟨rfl, q, u, y, hq, hu, rfl⟩ := microStep_effect h
  · exact ⟨fun hne => absurd rfl hne, fun hne => absurd rfl hne⟩
  · obtain ⟨ha, hh⟩ := hu.flags
    refine ⟨fun hne => ?_, fun hne => ⟨rfl, hq.trans (congrArg some (hh.resolve_left hne))⟩⟩
    obtain ⟨rfl, hv⟩ | ⟨rfl, hv⟩ := ha.resolve_left hne
    · exact .inl ⟨rfl, hq, hv⟩
    · exact .inr (.inl ⟨rfl, hq, hv⟩)
  · refine ⟨fun hne => ?_, fun hne => absurd (hu.frame.hooks (by cases q <;> nofun)) hne⟩
    obtain ⟨w, rfl, hv⟩ := hu.flags.resolve_left hne
    exact .inr (.inr ⟨rfl, w, hq, hv⟩)

/-- Settles O41: turns, words, answers and positions leave the enables and the events, and an event moves both along. -/
theorem enablesFollowEvents : Obligations.EnablesFollowEvents := by
  unfold Obligations.EnablesFollowEvents
  intro s t hs h
  refine step_keeps (P := State.enablesFollow) ?drop ?words ?respond ?start ?micro hs h
  case drop => intro u hu; exact enablesFollow_congr (by simp) (by simp) (by simp) hu
  case words => intro u p ws hu; cases p <;> exact enablesFollow_congr rfl rfl rfl hu
  case respond => intro u hu; exact enablesFollow_congr rfl rfl rfl hu
  case start => intro u i v _ hu _; cases i <;> exact enablesFollow_congr rfl rfl rfl hu
  case micro => intro p u v hu h; exact enablesFollow_microStep hu h

end

section
/-! SUPPORT. The occupancy under the invariant (10_state.md R23, R27, R33), states beyond it, and the state after construction (R31). -/

namespace Sys2Proof.Machine

variable {s : State} {b : Buf} {n : Nat}

/-- Where the invariant holds outside an INIT and a buffer has an occupancy, its counters are written and related as the invariant says. -/
theorem countersOk_of_occ (hi : s.Inv) (hn : s.inInit = false) (ho : s.occ b = some n) :
    ∃ w r, (s.ring b).writeIndex = some w ∧ (s.ring b).readIndex = some r ∧ n = counterSub s.cfg w r ∧ countersOk s b w r := by
  obtain ⟨-, -, hs | hs⟩ := (inv_iff hn).mp hi
  · obtain ⟨h1, -, h3, -⟩ := hs
    cases b <;> simp [State.occ, h1, h3] at ho
  · obtain ⟨htx, hrx, -⟩ := (inv_and_settled_iff hn).mp ⟨hi, hs⟩
    have key : ∀ x y, RingOk s b x y → ∃ w r, (s.ring b).writeIndex = some w ∧ (s.ring b).readIndex = some r ∧
        n = counterSub s.cfg w r ∧ countersOk s b w r := by
      rintro x y ⟨-, w, r, hw, hr, hc, -⟩
      exact ⟨w, r, hw, hr, Option.some.inj (ho.symm.trans (occ_eq hw hr)), hc⟩
    cases b
    · exact key _ _ htx
    · exact key _ _ hrx

/-- Every slot counted as queued is written (10_state.md R33). -/
theorem queue_isSome {w r : Nat} (hw : (s.ring b).writeIndex = some w) (hr : (s.ring b).readIndex = some r)
    (hc : countersOk s b w r) : ∀ x ∈ s.queue b, x.isSome = true := by
  rw [queue_eq hw hr]
  intro x hx
  obtain ⟨j, hj, rfl⟩ := List.mem_map.mp hx
  obtain ⟨-, -, -, hwritten⟩ := hc
  exact hwritten j (List.mem_range.mp hj)

theorem full_iff (ho : s.occ b = some n) : s.full b = true ↔ n = s.cfg.cap b := by simp [State.full, ho]

theorem empty_iff (ho : s.occ b = some n) : s.empty b = true ↔ n = 0 := by simp [State.empty, ho]

/-- Outside an INIT a state with more than a buffer's capacity has no meaning. -/
theorem not_inBounds (hn : s.inInit = false) (ho : s.occ b = some n) (hlt : s.cfg.cap b < n) : s.inBounds = false := by
  have hw : s.within b = false := by simp [State.within, ho, hlt]
  cases b <;> simp [State.inBounds, hn, hw]

theorem step_broken (h : s.inBounds = false) : step s = .refused .brokenOccupancy := ifInBounds_broken h _

theorem exec_broken {i : Instr} (h : s.inBounds = false) (hf : s.inFlight i.port = false) :
    exec i s = .refused .brokenOccupancy := by
  rw [exec_of_idle hf]
  exact runMicro_broken (startAt_inFlight i s) ((startAt_inBounds hf).trans h)

theorem storageOk_of_empty (h : (s.ring b).storage = []) : storageOk s b := by simp [storageOk, h]

theorem inv_constructed (c : Config) : (State.constructed c).Inv :=
  (inv_iff rfl).mpr ⟨storageOk_of_empty rfl, storageOk_of_empty rfl, .inl ⟨rfl, rfl, rfl, rfl, rfl, trivial, trivial⟩⟩

end Sys2Proof.Machine

open Sys2Proof Sys2Proof.Machine

/-- Settles O37: the invariant bounds the occupancy, and a step, a micro-step and an operation each ask first whether the state has a meaning. -/
theorem occupancyBounded : Obligations.OccupancyBounded := by
  unfold Obligations.OccupancyBounded
  constructor
  · intro s b n hi hn ho
    obtain ⟨w, r, hw, hr, hnw, hc⟩ := countersOk_of_occ hi hn ho
    obtain ⟨-, -, hle, -⟩ := id hc
    refine ⟨hnw ▸ hle, full_iff ho, empty_iff ho, ?_, (queue_length hw hr).trans hnw.symm, queue_isSome hw hr hc⟩
    rw [full_iff ho, empty_iff ho]
    have := cap_pos s.cfg b
    omega
  · intro s b n hn ho hlt
    have hb : s.inBounds = false := not_inBounds hn ho hlt
    exact ⟨step_broken hb, fun p => microStep_broken hb, fun i hf => exec_broken hb hf⟩

/-- Settles O10: the constructed state is written out in the model. -/
theorem constructedState : Obligations.ConstructedState := by
  unfold Obligations.ConstructedState
  rintro c s rfl
  refine ⟨rfl, rfl, rfl, rfl, rfl, rfl, rfl, rfl, fun b => ?_⟩
  cases b <;> exact ⟨rfl, rfl, fun _ => rfl⟩

/-- Settles O35: before the first INIT, with nothing in flight and no event emitted. -/
theorem invAtReset : Obligations.InvAtReset := by
  unfold Obligations.InvAtReset
  exact ⟨inv_constructed Config.built, rfl, rfl⟩

end

section
/-! SUPPORT. Runs of the machine side by side: related states whose micro-steps answer alike have operations and steps that answer alike. -/

namespace Sys2Proof.Machine

variable {R Q : State → State → Prop} {s t : State} {p : Port}

/-- Two results are alike: next states that are related, or the same fault, or the same refusal. -/
inductive Alike (R : State → State → Prop) : Result → Result → Prop
  | next {s t : State} (h : R s t) : Alike R (.next s) (.next t)
  | fault (e : Fault) : Alike R (.fault e) (.fault e)
  | refused (e : Refusal) : Alike R (.refused e) (.refused e)

/-- The two branches of one test, related branch by branch. -/
theorem rel_ite {c : Prop} [Decidable c] {s' t' : State} (h : R s t) (h' : R s' t') :
    R (if c then s else s') (if c then t else t') := by
  split
  · exact h
  · exact h'

namespace Alike

variable {x y : Result}

theorem imp (h : Alike R x y) (hQ : ∀ s t, x = .next s → R s t → Q s t) : Alike Q x y := by
  cases h with
  | next h => exact .next (hQ _ _ rfl h)
  | fault e => exact .fault e
  | refused e => exact .refused e

theorem andThen {f f' : State → Result} (h : Alike R x y) (hf : ∀ s t, R s t → Alike Q (f s) (f' t)) :
    Alike Q (andThen x f) (andThen y f') := by
  cases h with
  | next h => exact hf _ _ h
  | fault e => exact .fault e
  | refused e => exact .refused e

/-- The same element is read. -/
theorem orUninit {α : Type} {a : Option α} {k k' : α → Result} (h : ∀ v, Alike R (k v) (k' v)) :
    Alike R (orUninit a k) (orUninit a k') := by
  cases a
  · exact .fault _
  · exact h _

theorem ifInBounds (hb : t.inBounds = s.inBounds) (h : Alike R x y) : Alike R (ifInBounds s x) (ifInBounds t y) := by
  cases hs : s.inBounds
  · rw [ifInBounds_broken hs, ifInBounds_broken (hb.trans hs)]
    exact .refused _
  · rwa [ifInBounds_of hs, ifInBounds_of (hb.trans hs)]

/-- Alike up to a function of the state is equal up to it. -/
theorem eq_mapNext {g : State → State} (h : Alike (fun s t => t = g s) x y) : y = mapNext g x := by
  cases h with
  | next h => exact congrArg _ h
  | fault e => rfl
  | refused e => rfl

theorem mapNext_eq {g : State → State} (h : Alike (fun s t => g t = g s) x y) : mapNext g y = mapNext g x := by
  cases h with
  | next h => exact congrArg Host.Outcome.next h
  | fault e => rfl
  | refused e => rfl

end Alike

/-! ### From labelled micro-steps to steps -/

theorem irqMicro_alike {q : IrqPos} (hr : t.initRaced = s.initRaced)
    (h1 : ∀ x, q = .txrdy x → Alike R (txrdyMicro x s) (txrdyMicro x t))
    (h2 : ∀ x, q = .rxbyte x → Alike R (rxbyteMicro x s) (rxbyteMicro x t)) : Alike R (irqMicro q s) (irqMicro q t) := by
  unfold irqMicro
  rw [hr]
  split
  · exact .fault _
  · cases q
    · exact h1 _ rfl
    · exact h2 _ rfl

/-- Micro-steps of one agent are alike where they are at the position it has in flight. -/
theorem microStep_alike (hb : t.inBounds = s.inBounds) (hf : t.fg = s.fg) (hi : t.irq = s.irq) (h0 : R s t)
    (h1 : ∀ q, p = .fg → s.fg = some q → Alike R (fgMicro q s) (fgMicro q t))
    (h2 : ∀ c, p = .irq → s.irq = some c → Alike R (irqMicro c.pos s) (irqMicro c.pos t)) :
    Alike R (microStep p s) (microStep p t) := by
  refine .ifInBounds hb ?_
  cases p
  case fg =>
    simp only [hf]
    cases h : s.fg
    · exact .next h0
    · exact h1 _ rfl h
  case irq =>
    simp only [hi]
    cases h : s.irq
    · exact .next h0
    · exact h2 _ rfl h

/-- Whole runs are alike where micro-steps of the operation in flight are. -/
theorem runMicro_alike (hf : ∀ s t, R s t → t.inFlight p = s.inFlight p) (hh : ∀ s t, R s t → t.heldAtE1 = s.heldAtE1)
    (hm : ∀ s t, R s t → s.inFlight p = true → Alike R (microStep p s) (microStep p t)) (n : Nat) (h : R s t) :
    Alike R (runMicro p n s) (runMicro p n t) := by
  induction n generalizing s t with
  | zero => exact .next h
  | succ n ih =>
    cases hs : s.inFlight p
    case false =>
      rw [runMicro_idle hs, runMicro_idle ((hf s t h).trans hs)]
      exact .next h
    case true =>
      simp only [runMicro, hs, hf s t h, if_true]
      refine (hm s t h hs).andThen fun u v huv => ?_
      rw [hh u v huv]
      split
      · exact .next huv
      · exact ih huv

/-- What relates two states so that they run side by side: they have the same in flight, to do and to take, and their micro-steps are alike. -/
structure Lockstep (R : State → State → Prop) : Prop where
  inBounds : ∀ s t, R s t → t.inBounds = s.inBounds
  inFlight : ∀ s t p, R s t → t.inFlight p = s.inFlight p
  heldAtE1 : ∀ s t, R s t → t.heldAtE1 = s.heldAtE1
  words : ∀ s t p, R s t → t.words p = s.words p
  turnOf : ∀ s t, R s t → t.turnOf = s.turnOf
  mover : ∀ s t x, R s t → t.mover x = s.mover x
  dropTurn : ∀ s t, R s t → R s.dropTurn t.dropTurn
  setWords : ∀ s t p ws, R s t → R (s.setWords p ws) (t.setWords p ws)
  illegal : ∀ s t, R s t → R (s.respond .illegal 0) (t.respond .illegal 0)
  startAt : ∀ s t i, R s t → R (startAt i s) (startAt i t)
  microStep : ∀ s t p, R s t → Alike R (microStep p s) (microStep p t)

namespace Lockstep

variable (hR : Lockstep R)
include hR

theorem runMicro (h : R s t) (n : Nat) : Alike R (runMicro p n s) (runMicro p n t) :=
  runMicro_alike (fun s t => hR.inFlight s t p) hR.heldAtE1 (fun s t h _ => hR.microStep s t p h) n h

theorem exec (h : R s t) (i : Instr) : Alike R (exec i s) (exec i t) := by
  rw [exec_eq_issue, exec_eq_issue, issue, issue, hR.inFlight s t _ h]
  split
  · exact .refused _
  · exact hR.runMicro (hR.startAt s t i h) _

theorem issueMicro (h : R s t) (i : Instr) : Alike R (issueMicro i s) (issueMicro i t) := by
  rw [Machine.issueMicro, Machine.issueMicro, hR.inFlight s t _ h]
  split
  · exact .refused _
  · exact hR.microStep _ _ _ (hR.startAt s t i h)

theorem takeWord (h : R s t) (g : Grain) : Alike R (takeWord p g s) (takeWord p g t) := by
  rw [Machine.takeWord, Machine.takeWord, hR.words s t p h]
  split
  · exact .next h
  · next w ws _ =>
    have h := hR.setWords s t p ws h
    split
    · cases p
      · exact .next (hR.illegal _ _ h)
      · exact .refused _
    · cases g
      · exact hR.issueMicro h _
      · exact hR.exec h _

theorem goOn (h : R s t) (g : Grain) : Alike R (goOn p g s) (goOn p g t) := by
  cases g
  · exact hR.microStep s t p h
  · exact hR.runMicro h _

/-- Related states step alike. -/
theorem step (h : R s t) : Alike R (step s) (step t) := by
  refine .ifInBounds (hR.inBounds s t h) ?_
  have h' := hR.dropTurn s t h
  rw [hR.turnOf s t h, hR.mover s t _ h, turn, turn, hR.inFlight _ _ _ h']
  split
  · exact hR.goOn h' _
  · exact hR.takeWord h' _

end Lockstep

end Sys2Proof.Machine
end

section
/-! SUPPORT. No micro-step reads the collaborator's enables (10_state.md R28, 60_exceptions.md R162), so states that differ only in them run side by
side. -/

namespace Sys2Proof.Machine

variable {s t : State}

/-- The same state with other enables. -/
def State.withEnables (s : State) (x y : Bool) : State := { s with txEn := x, rxEn := y }

/-- The states differ in the enables only. -/
def EnablesApart (s t : State) : Prop := ∃ x y, t = s.withEnables x y

theorem enablesApart_emit (s : State) (x y : Bool) (e : HookEvent) :
    EnablesApart (s.emit e) ((s.withEnables x y).emit e) := by
  cases e
  case sendByte => exact ⟨x, y, rfl⟩
  case setRxEn b => exact ⟨x, b, rfl⟩
  case setTxEn b => exact ⟨b, y, rfl⟩

theorem enablesApart_emitIfBound (s : State) (x y : Bool) (e : HookEvent) :
    EnablesApart (s.emitIfBound e) ((s.withEnables x y).emitIfBound e) := by
  have hb : (s.withEnables x y).bound e.hook = s.bound e.hook := rfl
  rw [State.emitIfBound, State.emitIfBound, hb]
  split
  · exact enablesApart_emit s x y e
  · exact ⟨x, y, rfl⟩

theorem EnablesApart.setFg (h : EnablesApart s t) (q : Option FgPos) : EnablesApart (s.setFg q) (t.setFg q) := by
  obtain ⟨x, y, rfl⟩ := h
  exact ⟨x, y, rfl⟩

theorem EnablesApart.setIrqPos (h : EnablesApart s t) (q : IrqPos) : EnablesApart (s.setIrqPos q) (t.setIrqPos q) := by
  obtain ⟨x, y, rfl⟩ := h
  exact ⟨x, y, rfl⟩

theorem EnablesApart.endCallback (h : EnablesApart s t) : EnablesApart s.endCallback t.endCallback := by
  obtain ⟨x, y, rfl⟩ := h
  exact ⟨x, y, rfl⟩

theorem enablesApart_enqFull (s : State) (x y : Bool) (b : Byte) :
    EnablesApart (enqFull b s) (enqFull b (s.withEnables x y)) := by
  cases h : s.cfg.policy <;> simp only [enqFull, State.withEnables, h] <;> exact ⟨x, y, rfl⟩

/-- Each of FG's labelled micro-steps reads the same values and makes the same update, whatever the enables. -/
theorem fgMicro_enables (q : FgPos) (s : State) (x y : Bool) :
    Alike EnablesApart (fgMicro q s) (fgMicro q (s.withEnables x y)) := by
  rcases q with q | q | q | q | q
  case init =>
    cases q
    case i6 => exact .next ((enablesApart_emitIfBound s x y _).setFg _)
    all_goals exact .next ⟨x, y, rfl⟩
  case bind => cases q <;> exact .next ⟨x, y, rfl⟩
  case enq =>
    cases q
    case e1 => exact .orUninit fun _ => .next ⟨x, y, rfl⟩
    case e2 =>
      exact .orUninit fun w => .next (rel_ite (enablesApart_enqFull s x y _) ⟨x, y, rfl⟩)
    case e3 => exact .orUninit fun _ => .next ⟨x, y, rfl⟩
    case e4 => exact .orUninit fun _ => .next ⟨x, y, rfl⟩
    case e5 => exact .orUninit fun _ => .next ⟨x, y, rfl⟩
    case e6 a => cases a <;> exact .next ⟨x, y, rfl⟩
    case e7 a =>
      cases a
      · exact .next ((enablesApart_emitIfBound s x y _).setFg _)
      · exact .next ⟨x, y, rfl⟩
    case e8 => exact .next ⟨x, y, rfl⟩
  case deq =>
    cases q
    case q1 => exact .orUninit fun _ => .next ⟨x, y, rfl⟩
    case q2 => exact .orUninit fun r => .next (rel_ite ⟨x, y, rfl⟩ ⟨x, y, rfl⟩)
    case q3 => exact .orUninit fun _ => .orUninit fun _ => .next ⟨x, y, rfl⟩
    case q4 => exact .orUninit fun _ => .next ⟨x, y, rfl⟩
    case q5 => exact .next ⟨x, y, rfl⟩
  case rxcnt => cases q <;> exact .orUninit fun _ => .next ⟨x, y, rfl⟩

/-- So does each of a callback's, whose test for a race does not look at the enables either. -/
theorem irqMicro_enables (q : IrqPos) (s : State) (x y : Bool) :
    Alike EnablesApart (irqMicro q s) (irqMicro q (s.withEnables x y)) := by
  refine irqMicro_alike rfl ?txrdy ?rxbyte
  case txrdy =>
    rintro q -
    cases q
    case t1 =>
      have hb : (s.withEnables x y).bound .sendByte = s.bound .sendByte := rfl
      simp only [txrdyMicro, hb]
      split
      · exact .next ⟨x, y, rfl⟩
      · exact .fault _
    case t2 => exact .orUninit fun _ => .next ⟨x, y, rfl⟩
    case t3 => exact .orUninit fun _ => .next ⟨x, y, rfl⟩
    case t4 => exact .orUninit fun _ => .orUninit fun _ => .next ⟨x, y, rfl⟩
    case t5 => exact .next ((enablesApart_emit s x y _).setIrqPos _)
    case t6 => exact .orUninit fun _ => .next ⟨x, y, rfl⟩
    case t7 => exact .orUninit fun _ => .next ⟨x, y, rfl⟩
    case t8 => exact .orUninit fun r => .next (EnablesApart.endCallback (rel_ite ⟨x, y, rfl⟩ ⟨x, y, rfl⟩))
    case t9 => exact .next (enablesApart_emitIfBound s x y _).endCallback
  case rxbyte =>
    rintro q -
    cases q
    case b1 => exact .orUninit fun _ => .next ⟨x, y, rfl⟩
    case b2 => exact .orUninit fun w => .next (rel_ite ⟨x, y, rfl⟩ ⟨x, y, rfl⟩)
    case b3 => exact .orUninit fun _ => .next ⟨x, y, rfl⟩
    case b4 => exact .orUninit fun _ => .next ⟨x, y, rfl⟩

theorem microStep_enables (p : Port) (h : EnablesApart s t) : Alike EnablesApart (microStep p s) (microStep p t) := by
  have h' := h
  obtain ⟨x, y, rfl⟩ := h
  exact microStep_alike rfl rfl rfl h' (fun q _ _ => fgMicro_enables q s x y) fun c _ _ => irqMicro_enables c.pos s x y

theorem lockstep_enablesApart : Lockstep EnablesApart where
  inBounds := by rintro s t ⟨x, y, rfl⟩; rfl
  inFlight := by rintro s t p ⟨x, y, rfl⟩; cases p <;> rfl
  heldAtE1 := by rintro s t ⟨x, y, rfl⟩; rfl
  words := by rintro s t p ⟨x, y, rfl⟩; cases p <;> rfl
  turnOf := by rintro s t ⟨x, y, rfl⟩; rfl
  mover := by rintro s t z ⟨x, y, rfl⟩; rfl
  dropTurn := by
    rintro s t ⟨x, y, rfl⟩
    refine ⟨x, y, ?_⟩
    cases h : s.turns <;> simp [State.dropTurn, State.withEnables, h]
  setWords := by rintro s t p ws ⟨x, y, rfl⟩; cases p <;> exact ⟨x, y, rfl⟩
  illegal := by rintro s t ⟨x, y, rfl⟩; exact ⟨x, y, rfl⟩
  startAt := by rintro s t i ⟨x, y, rfl⟩; cases i <;> exact ⟨x, y, rfl⟩
  microStep := fun _ _ p h => microStep_enables p h

end Sys2Proof.Machine

open Sys2Proof Sys2Proof.Machine

/-- Settles O52: states that differ in the enables only run side by side. -/
theorem enablesUnread : Obligations.EnablesUnread := by
  unfold Obligations.EnablesUnread
  intro s x y
  refine ((lockstep_enablesApart.step ⟨x, y, rfl⟩).imp ?_).mapNext_eq
  rintro u v - ⟨x', y', rfl⟩
  rfl

end

section
/-! SUPPORT. Each operation but INIT works on one of the two directions (10_state.md R29): it runs side by side with itself in a state whose other
buffer is another one. INIT's whole effect (41_foreground.md R110) is its seven micro-steps in a row. -/

namespace Sys2Proof.Machine

variable {s t : State} {p : Port} {o : Op} {r : Ring} {a : Option Bool}

/-! ### An operation with part of the state replaced -/

theorem microStep_inInit (ho : s.opAt p = some o) (hne : o ≠ .init) (h : microStep p s = .next t) : t.inInit = s.inInit := by
  cases p
  · obtain ⟨q, hf, rfl⟩ := Option.map_eq_some_iff.mp ho
    rw [inInit_of_op hf hne]
    obtain hnone | ⟨ho', -⟩ := (microStep_fg_op hf h).2
    · simp [State.inInit, hnone]
    · obtain ⟨q', hf', ho'⟩ := Option.map_eq_some_iff.mp ho'
      exact inInit_of_op hf' (ho' ▸ hne)
  · exact inInit_congr (microStep_irq_keeps h).fg

/-- Two states with a meaning go on to states that both have one or both have none, where in each buffer they come to the same occupancy or
have left their own as it was. -/
theorem inBounds_along {s' t' : State} (hs : s.inBounds = true) (hs' : s'.inBounds = true) (h1 : s'.inInit = s.inInit)
    (h2 : t.inInit = s.inInit) (h3 : t'.inInit = t.inInit)
    (h : ∀ b, t'.within b = t.within b ∨ t.within b = s.within b ∧ t'.within b = s'.within b) :
    t'.inBounds = t.inBounds := by
  cases hn : s.inInit
  case true => simp [State.inBounds, h3, h2, hn]
  case false =>
    obtain ⟨htx, hrx⟩ := (inBounds_iff hn).mp hs
    obtain ⟨htx', hrx'⟩ := (inBounds_iff (h1.trans hn)).mp hs'
    have e1 : t'.within .tx = t.within .tx := (h .tx).elim id fun ⟨e, e'⟩ => by rw [e, e', htx, htx']
    have e2 : t'.within .rx = t.within .rx := (h .rx).elim id fun ⟨e, e'⟩ => by rw [e, e', hrx, hrx']
    simp [State.inBounds, h3, e1, e2]

/-- While an operation runs, the other state is the one with the part replaced, it has a meaning where this one has, and nothing but the
operation is in flight on its port. -/
def RunsApart (g : State → State) (i : Instr) (s t : State) : Prop :=
  t = g s ∧ (g s).inBounds = s.inBounds ∧ (s.inFlight i.port = true → s.opAt i.port = some (opOf i))

/-- An operation does not read what `g` replaces, where none of its micro-steps does. -/
theorem exec_apart {g : State → State} {i : Instr} (hf : ∀ s p, (g s).inFlight p = s.inFlight p)
    (hh : ∀ s, (g s).heldAtE1 = s.heldAtE1) (hstart : ∀ s, startAt i (g s) = g (startAt i s))
    (hm : ∀ s, s.opAt i.port = some (opOf i) → (g s).inBounds = s.inBounds →
      Alike (fun s t => t = g s) (microStep i.port s) (microStep i.port (g s)))
    (hk : ∀ s t, s.opAt i.port = some (opOf i) → (g s).inBounds = s.inBounds → microStep i.port s = .next t →
      (g t).inBounds = t.inBounds)
    (hb : (g s).inBounds = s.inBounds) : exec i (g s) = mapNext g (exec i s) := by
  cases hs : s.inFlight i.port
  case true => simp [exec_eq_issue, issue, hf, hs, mapNext]
  case false =>
    have hs' : (g s).inFlight i.port = false := (hf s _).trans hs
    rw [exec_of_idle hs, exec_of_idle hs', hstart]
    have hb0 : (g (startAt i s)).inBounds = (startAt i s).inBounds := by
      rw [← hstart, startAt_inBounds hs, startAt_inBounds hs', hb]
    suffices h : Alike (RunsApart g i) _ _ from (h.imp fun _ _ _ ⟨h, _⟩ => h).eq_mapNext
    refine runMicro_alike ?_ ?_ ?_ _ ⟨rfl, hb0, fun _ => startAt_opAt i s⟩
    · rintro u _ ⟨rfl, -, -⟩
      exact hf u _
    · rintro u _ ⟨rfl, -, -⟩
      exact hh u
    · rintro u _ ⟨rfl, hbu, ho⟩ hfu
      refine (hm u (ho hfu) hbu).imp fun v w hv hw => ⟨hw, hk u v (ho hfu) hbu hv, fun hfv => ?_⟩
      obtain hnone | ⟨ho', -⟩ := microStep_onward (ho hfu) hv
      · rw [← opAt_isSome, hnone] at hfv
        cases hfv
      · exact ho'

/-! ### Another receive buffer -/

/-- The same state with another receive buffer. -/
def State.withRx (s : State) (r : Ring) : State := { s with rx := r }

theorem withRx_emitIfBound (s : State) (r : Ring) (e : HookEvent) :
    (s.withRx r).emitIfBound e = (s.emitIfBound e).withRx r := by
  have hb : (s.withRx r).bound e.hook = s.bound e.hook := rfl
  rw [State.emitIfBound, State.emitIfBound, hb]
  split
  · cases e <;> rfl
  · rfl

theorem withRx_enqFull (s : State) (r : Ring) (b : Byte) : enqFull b (s.withRx r) = (enqFull b s).withRx r := by
  cases h : s.cfg.policy <;> simp [enqFull, State.withRx, h] <;> rfl

theorem withRx_disarmIf (s : State) (r : Ring) (n : Nat) : disarmIf n (s.withRx r) = (disarmIf n s).withRx r := by
  cases n <;> rfl

theorem fgMicro_withRx (q : FgPos) (hq : q.op = .enq ∨ q.op = .bind) (s : State) (r : Ring) :
    Alike (fun s t => t = s.withRx r) (fgMicro q s) (fgMicro q (s.withRx r)) := by
  rcases q with q | q | q | q | q
  case init => simp [FgPos.op] at hq
  case deq => simp [FgPos.op] at hq
  case rxcnt => simp [FgPos.op] at hq
  case bind => cases q <;> exact .next rfl
  case enq =>
    cases q
    case e1 => exact .orUninit fun _ => .next rfl
    case e2 => exact .orUninit fun _ => .next (rel_ite (R := fun s t => t = s.withRx r) (withRx_enqFull s r _) rfl)
    case e3 => exact .orUninit fun _ => .next rfl
    case e4 => exact .orUninit fun _ => .next rfl
    case e5 => exact .orUninit fun _ => .next rfl
    case e6 a => cases a <;> exact .next rfl
    case e7 a =>
      cases a
      · exact .next (congrArg (State.setFg · _) (withRx_emitIfBound s r _))
      · exact .next rfl
    case e8 => exact .next rfl

theorem txrdyMicro_withRx (q : TxrdyPos) (s : State) (r : Ring) :
    Alike (fun s t => t = s.withRx r) (txrdyMicro q s) (txrdyMicro q (s.withRx r)) := by
  cases q
  case t1 =>
    have hb : (s.withRx r).bound .sendByte = s.bound .sendByte := rfl
    simp only [txrdyMicro, hb]
    split
    · exact .next rfl
    · exact .fault _
  case t2 => exact .orUninit fun _ => .next rfl
  case t3 => exact .orUninit fun _ => .next rfl
  case t4 => exact .orUninit fun _ => .orUninit fun _ => .next rfl
  case t5 => exact .next rfl
  case t6 => exact .orUninit fun _ => .next rfl
  case t7 => exact .orUninit fun _ => .next rfl
  case t8 => exact .orUninit fun _ => .next (congrArg State.endCallback (withRx_disarmIf s r _))
  case t9 => exact .next (congrArg State.endCallback (withRx_emitIfBound s r _))

theorem microStep_withRx (ho : s.opAt p = some o) (hop : o = .enq ∨ o = .bind ∨ o = .txrdy)
    (hb : (s.withRx r).inBounds = s.inBounds) :
    Alike (fun s t => t = s.withRx r) (microStep p s) (microStep p (s.withRx r)) := by
  refine microStep_alike hb rfl rfl rfl ?_ ?_
  · rintro q rfl hq
    obtain rfl : q.op = o := by simpa [State.opAt, hq] using ho
    refine fgMicro_withRx q (hop.imp_right (Or.resolve_right · fun h => ?_)) s r
    have hp := q.port_op
    simp [h, Op.port] at hp
  · rintro c rfl hc
    obtain rfl : c.pos.op = o := by simpa [State.opAt, hc] using ho
    refine irqMicro_alike rfl (fun q _ => txrdyMicro_withRx q s r) fun q hq => ?_
    simp [hq, IrqPos.op] at hop

theorem inBounds_withRx_microStep (ho : s.opAt p = some o) (hop : o = .enq ∨ o = .bind ∨ o = .txrdy)
    (hb : (s.withRx r).inBounds = s.inBounds) (h : microStep p s = .next t) : (t.withRx r).inBounds = t.inBounds := by
  have hs := (microStep_eq_next.mp h).1
  have hfr := microStep_frame ho h
  have hne : o ≠ .init ∧ o ≠ .rxbyte ∧ o ≠ .deq := by obtain rfl | rfl | rfl := hop <;> simp
  obtain ⟨h1, h2, h3⟩ := hne
  refine inBounds_along hs (hb.trans hs) rfl (microStep_inInit ho h1 h) rfl fun b => ?_
  cases b
  · exact .inl rfl
  · exact .inr ⟨within_congr hfr.cfg (hfr.rxWrite h1 h2) (hfr.rxRead h1 h3), within_congr hfr.cfg rfl rfl⟩

/-- An operation of the transmit direction, or BIND, does the same whatever the receive buffer holds and leaves it as it is. -/
theorem exec_withRx {i : Instr} (hop : opOf i = .enq ∨ opOf i = .bind ∨ opOf i = .txrdy)
    (hb : (s.withRx r).inBounds = s.inBounds) : exec i (s.withRx r) = mapNext (State.withRx · r) (exec i s) :=
  exec_apart (g := (State.withRx · r)) (fun s p => by cases p <;> rfl) (fun _ => rfl) (fun s => by cases i <;> rfl)
    (fun _ ho hb => microStep_withRx ho hop hb) (fun _ _ ho hb h => inBounds_withRx_microStep ho hop hb h) hb

/-! ### Another transmit buffer -/

/-- The same state with another transmit buffer and `tx_armed`. -/
def State.withTx (s : State) (r : Ring) (a : Option Bool) : State := { s with tx := r, txArmed := a }

theorem fgMicro_withTx (q : FgPos) (hq : q.op = .deq ∨ q.op = .rxcnt ∨ q.op = .bind) (s : State) (r : Ring) (a : Option Bool) :
    Alike (fun s t => t = s.withTx r a) (fgMicro q s) (fgMicro q (s.withTx r a)) := by
  rcases q with q | q | q | q | q
  case init => simp [FgPos.op] at hq
  case enq => simp [FgPos.op] at hq
  case bind => cases q <;> exact .next rfl
  case deq =>
    cases q
    case q1 => exact .orUninit fun _ => .next rfl
    case q2 => exact .orUninit fun _ => .next (rel_ite (R := fun s t => t = s.withTx r a) rfl rfl)
    case q3 => exact .orUninit fun _ => .orUninit fun _ => .next rfl
    case q4 => exact .orUninit fun _ => .next rfl
    case q5 => exact .next rfl
  case rxcnt => cases q <;> exact .orUninit fun _ => .next rfl

theorem rxbyteMicro_withTx (q : RxbytePos) (s : State) (r : Ring) (a : Option Bool) :
    Alike (fun s t => t = s.withTx r a) (rxbyteMicro q s) (rxbyteMicro q (s.withTx r a)) := by
  cases q
  case b1 => exact .orUninit fun _ => .next rfl
  case b2 => exact .orUninit fun _ => .next (rel_ite (R := fun s t => t = s.withTx r a) rfl rfl)
  case b3 => exact .orUninit fun _ => .next rfl
  case b4 => exact .orUninit fun _ => .next rfl

theorem microStep_withTx (ho : s.opAt p = some o) (hop : o = .deq ∨ o = .rxcnt ∨ o = .bind ∨ o = .rxbyte)
    (hb : (s.withTx r a).inBounds = s.inBounds) :
    Alike (fun s t => t = s.withTx r a) (microStep p s) (microStep p (s.withTx r a)) := by
  refine microStep_alike hb rfl rfl rfl ?_ ?_
  · rintro q rfl hq
    obtain rfl : q.op = o := by simpa [State.opAt, hq] using ho
    refine fgMicro_withTx q (hop.imp_right (.imp_right (Or.resolve_right · fun h => ?_))) s r a
    have hp := q.port_op
    simp [h, Op.port] at hp
  · rintro c rfl hc
    obtain rfl : c.pos.op = o := by simpa [State.opAt, hc] using ho
    refine irqMicro_alike rfl (fun q hq => ?_) fun q _ => rxbyteMicro_withTx q s r a
    simp [hq, IrqPos.op] at hop

theorem inBounds_withTx_microStep (ho : s.opAt p = some o) (hop : o = .deq ∨ o = .rxcnt ∨ o = .bind ∨ o = .rxbyte)
    (hb : (s.withTx r a).inBounds = s.inBounds) (h : microStep p s = .next t) : (t.withTx r a).inBounds = t.inBounds := by
  have hs := (microStep_eq_next.mp h).1
  have hfr := microStep_frame ho h
  have hne : o ≠ .init ∧ o ≠ .enq ∧ o ≠ .txrdy := by obtain rfl | rfl | rfl | rfl := hop <;> simp
  obtain ⟨h1, h2, h3⟩ := hne
  refine inBounds_along hs (hb.trans hs) rfl (microStep_inInit ho h1 h) rfl fun b => ?_
  cases b
  · exact .inr ⟨within_congr hfr.cfg (hfr.txWrite h1 h2) (hfr.txRead h1 h3), within_congr hfr.cfg rfl rfl⟩
  · exact .inl rfl

/-- An operation of the receive direction, or BIND, does the same whatever the transmit buffer and `tx_armed` hold and leaves them as they are. -/
theorem exec_withTx {i : Instr} (hop : opOf i = .deq ∨ opOf i = .rxcnt ∨ opOf i = .bind ∨ opOf i = .rxbyte)
    (hb : (s.withTx r a).inBounds = s.inBounds) : exec i (s.withTx r a) = mapNext (State.withTx · r a) (exec i s) :=
  exec_apart (g := (State.withTx · r a)) (fun s p => by cases p <;> rfl) (fun _ => rfl) (fun s => by cases i <;> rfl)
    (fun _ ho hb => microStep_withTx ho hop hb) (fun _ _ ho hb h => inBounds_withTx_microStep ho hop hb h) hb

/-! ### INIT -/

theorem runMicro_fg_succ {n : Nat} {q : FgPos} (hb : s.inBounds = true) (hf : s.fg = some q) (h : fgMicro q s = .next t)
    (hh : t.heldAtE1 = false) : runMicro .fg (n + 1) s = runMicro .fg n t := by
  rw [runMicro_succ (by simp [hf]) ((microStep_fg hb hf).trans h)]
  simp [hh]

/-- A buffer whose counters are both 0 is within its capacity. -/
theorem within_of_zero {b : Buf} (hw : (s.ring b).writeIndex = some 0) (hr : (s.ring b).readIndex = some 0) :
    s.within b = true := by
  simp [State.within, State.occ, hw, hr]

/-- INIT's whole effect (41_foreground.md R110). -/
theorem exec_init (hb : s.inBounds = true) (hf : s.fg = none) :
    exec .init s = .next
      { s with
        tx := { s.tx with writeIndex := some 0, readIndex := some 0 }
        rx := { s.rx with writeIndex := some 0, readIndex := some 0 }
        txArmed := some false
        irq := s.irq.map fun c => { c with raced := true }
        rxEn := if s.hooks.getLsbD 1 then true else s.rxEn
        hookOut := if s.hooks.getLsbD 1 then s.hookOut ++ [.setRxEn true] else s.hookOut
        rspOut := s.rspOut ++ [⟨.ok, 0⟩] } := by
  have hidle : s.inFlight .fg = false := by simp [hf]
  rw [exec_of_idle hidle]
  refine (runMicro_fg_succ ((startAt_inBounds (i := .init) hidle).trans hb) rfl rfl rfl).trans ?_
  refine (runMicro_fg_succ rfl rfl rfl rfl).trans ?_
  refine (runMicro_fg_succ rfl rfl rfl rfl).trans ?_
  refine (runMicro_fg_succ rfl rfl rfl rfl).trans ?_
  refine (runMicro_fg_succ rfl rfl rfl rfl).trans ?_
  refine (runMicro_fg_succ rfl rfl rfl rfl).trans ?_
  refine (runMicro_fg_succ (inBounds_of_within ?_ ?_) rfl rfl rfl).trans ?_
  · exact within_of_zero (by simp) (by simp)
  · exact within_of_zero (by simp) (by simp)
  · rw [runMicro_idle rfl]
    congr 1
    ext <;> simp [startAt, State.bound, hookBit, hf]

end Sys2Proof.Machine

open Sys2Proof Sys2Proof.Machine

/-- Settles O51: side by side with another buffer in the other direction; INIT by its whole effect. -/
theorem directionsIndependent : Obligations.DirectionsIndependent := by
  unfold Obligations.DirectionsIndependent
  refine ⟨fun i s r hi hb hb' => ?_, fun i s r a hi hb hb' => ?_, fun s hb hf => ⟨_, exec_init hb hf, fun b => ?_⟩⟩
  · refine exec_withRx ?_ (hb'.trans hb.symm)
    obtain rfl | ⟨b, rfl⟩ | ⟨m, rfl⟩ := hi <;> simp [opOf]
  · refine exec_withTx ?_ (hb'.trans hb.symm)
    obtain rfl | rfl | ⟨b, rfl⟩ | ⟨m, rfl⟩ := hi <;> simp [opOf]
  · cases b <;> exact ⟨rfl, rfl⟩

end

section
/-! SUPPORT. Which slots an operation may write (20_memory.md R50, R51; 40_ringbuffer.md R94, R96): in one micro-step a buffer's storage stays, or is
its producer's store to the slot of the write index; and an operation run whole stores once at most, and not to a full buffer. -/

namespace Sys2Proof.Machine

variable {s t u v : State} {p : Port} {b : Buf}

/-! ### One micro-step -/

/-- The operation that pushes to a buffer (20_memory.md R60). -/
def producer : Buf → Op
  | .tx => .enq
  | .rx => .rxbyte

/-- A buffer's storage is as before with one store, to the slot of the write index (20_memory.md R51). -/
def StoresAtWriteIndex (s t : State) (b : Buf) : Prop :=
  ∃ w x, (s.ring b).writeIndex = some w ∧ (t.ring b).storage = (s.ring b).storage.write (slotOf s.cfg b w) x

theorem FgEffect.storage {q : FgPos} (h : FgEffect s q u) (b : Buf) : (u.ring b).storage = (s.ring b).storage ∨
    q.op = producer b ∧ StoresAtWriteIndex s u b := by
  cases h
  case store x w hw =>
    cases b
    case tx => exact .inr ⟨rfl, w, x, hw, rfl⟩
    case rx => exact .inl rfl
  all_goals cases b <;> exact .inl rfl

theorem IrqEffect.storage {q : IrqPos} (h : IrqEffect s q u) (b : Buf) : (u.ring b).storage = (s.ring b).storage ∨
    q.op = producer b ∧ StoresAtWriteIndex s u b := by
  cases h
  case store x w hw =>
    cases b
    case tx => exact .inl rfl
    case rx => exact .inr ⟨rfl, w, x, hw, rfl⟩
  all_goals cases b <;> exact .inl rfl

/-- A micro-step leaves a buffer's storage, or is of its producer and writes the slot of the write index. -/
theorem microStep_storage (h : microStep p s = .next t) (b : Buf) : (t.ring b).storage = (s.ring b).storage ∨
    s.opAt p = some (producer b) ∧ StoresAtWriteIndex s t b := by
  obtain rfl | ⟨rfl, q, u, x, hq, hu, rfl⟩ | ⟨rfl, q, u, y, hq, hu, rfl⟩ := microStep_effect h
  · exact .inl rfl
  · have ho : s.opAt .fg = some q.op := by simp [State.opAt, hq]
    rw [ho, Option.some_inj]
    cases b
    · exact hu.storage .tx
    · exact hu.storage .rx
  · obtain ⟨c, hc, rfl⟩ := Option.map_eq_some_iff.mp hq
    have ho : s.opAt .irq = some c.pos.op := by simp [State.opAt, hc]
    rw [ho, Option.some_inj]
    cases b
    · exact hu.storage .tx
    · exact hu.storage .rx

theorem microStep_storage_wf (hs : (s.ring b).storage.wf) (h : microStep p s = .next t) : (t.ring b).storage.wf := by
  obtain he | ⟨-, w, x, -, he⟩ := microStep_storage h b
  · rwa [he]
  · rw [he]
    exact Memory.write_wf _ x hs

/-! ### A whole operation -/

/-- With nothing in flight a micro-step does nothing. -/
theorem microStep_idle (ho : s.opAt p = none) (h : microStep p s = .next t) : t = s := by
  obtain ⟨-, ⟨rfl, ⟨q, hq, -⟩ | ⟨-, rfl⟩⟩ | ⟨rfl, ⟨c, hc, -⟩ | ⟨-, rfl⟩⟩⟩ := microStep_eq_next.mp h
  · simp [State.opAt, hq] at ho
  · rfl
  · simp [State.opAt, hc] at ho
  · rfl

/-- What holds when an operation begins and is kept by the micro-steps of that operation holds at its end. -/
theorem exec_induction {P : State → Prop} {i : Instr} (hstart : P (startAt i s))
    (hmicro : ∀ u v, u.opAt i.port = some (opOf i) → P u → microStep i.port u = .next v → P v)
    (h : exec i s = .next t) : P t := by
  obtain ⟨-, -, h⟩ := exec_first h
  refine (runMicro_keeps (P := fun u => (u.opAt i.port = none ∨ u.opAt i.port = some (opOf i)) ∧ P u) ?_ _
    ⟨.inr (startAt_opAt i s), hstart⟩ h).2
  rintro u v ⟨ho | ho, hP⟩ h
  · obtain rfl := microStep_idle ho h
    exact ⟨.inl ho, hP⟩
  · exact ⟨(microStep_onward ho h).imp_right And.left, hmicro u v ho hP h⟩

/-- An operation other than a buffer's producer leaves every slot of that buffer. -/
theorem exec_storage {i : Instr} (hne : opOf i ≠ producer b) (h : exec i s = .next t) :
    (t.ring b).storage = (s.ring b).storage := by
  refine exec_induction (P := fun u => (u.ring b).storage = (s.ring b).storage) ?_ (fun u v ho hu h => ?_) h
  · cases b <;> simp
  · obtain he | ⟨ho', -⟩ := microStep_storage h b
    · exact he.trans hu
    · exact absurd (Option.some.inj (ho.symm.trans ho')) hne

/-! ### The producer's one store -/

/-- A buffer's storage is as it was, or with one store to the slot of the write index it had, when it was not full. -/
def StoredAtMostOnce (s t : State) (b : Buf) : Prop :=
  (t.ring b).storage = (s.ring b).storage ∨
    s.full b = false ∧ StoresAtWriteIndex s t b

theorem StoredAtMostOnce.memRead_ne {w a : Nat} (h : StoredAtMostOnce s t b) (hw : (s.ring b).writeIndex = some w)
    (ha : a ≠ slotOf s.cfg b w) : t.memRead b a = s.memRead b a := by
  obtain he | ⟨-, w', x, hw', he⟩ := h
  · simp only [State.memRead, he]
  · obtain rfl : w' = w := Option.some.inj (hw'.symm.trans hw)
    simp only [State.memRead, he, Memory.read_write_ne _ x ha]

theorem StoredAtMostOnce.memRead_full (h : StoredAtMostOnce s t b) (hf : s.full b = true) (a : Nat) :
    t.memRead b a = s.memRead b a := by
  obtain he | ⟨hf', -⟩ := h
  · simp only [State.memRead, he]
  · rw [hf] at hf'
    cases hf'

/-- How far a producer has come with its store (40_ringbuffer.md R94): it is before P1, at P2 with its copy of the read index, at P3, or past P3. -/
inductive StoreStage where
  | ahead
  | copied (r : Nat)
  | room
  | past

def FgPos.storeStage : FgPos → StoreStage
  | .enq (.e1 _) => .ahead
  | .enq (.e2 _ r) => .copied r
  | .enq (.e3 _) => .room
  | _ => .past

def IrqPos.storeStage : IrqPos → StoreStage
  | .rxbyte (.b1 _) => .ahead
  | .rxbyte (.b2 _ r) => .copied r
  | .rxbyte (.b3 _) => .room
  | _ => .past

/-- The stage of a buffer's producer. -/
def State.storeStage (s : State) : Buf → StoreStage
  | .tx => s.fg.elim .past FgPos.storeStage
  | .rx => s.irq.elim .past fun c => c.pos.storeStage

/-- What a producer that began in `s` has done to its buffer at a stage: nothing up to the store, and then one store at most. -/
def StoreStage.Done (s u : State) (b : Buf) : StoreStage → Prop
  | .ahead => u.ring b = s.ring b
  | .copied r => u.ring b = s.ring b ∧ (s.ring b).readIndex = some r
  | .room => u.ring b = s.ring b ∧ s.full b = false
  | .past => StoredAtMostOnce s u b

/-- P2 finds room where the buffer was not full: the producer's copy is the read index itself. -/
theorem StoreStage.Done.test {w r : Nat} (hd : (StoreStage.copied r).Done s u b) (hc : u.cfg = s.cfg)
    (hw : (u.ring b).writeIndex = some w) (hne : counterSub u.cfg w r ≠ u.cfg.cap b) : StoreStage.room.Done s u b := by
  obtain ⟨hu, hr⟩ := hd
  rw [hu] at hw
  rw [hc] at hne
  exact ⟨hu, by simp [State.full, State.occ, hw, hr, hne]⟩

/-- P3 is the one store. -/
theorem StoreStage.Done.store {w : Nat} {x : Byte} (hd : StoreStage.room.Done s u b) (hc : u.cfg = s.cfg)
    (hw : (u.ring b).writeIndex = some w) : StoredAtMostOnce s (u.memWrite b (slotOf u.cfg b w) x) b := by
  obtain ⟨hu, hf⟩ := hd
  rw [hu] at hw
  exact .inr ⟨hf, w, x, hw, by simp [hc, hu]⟩

/-- After P3 the storage stays. -/
theorem StoredAtMostOnce.of_eq (h : StoredAtMostOnce s u b) (he : (v.ring b).storage = (u.ring b).storage) :
    StoredAtMostOnce s v b := by
  unfold StoredAtMostOnce StoresAtWriteIndex
  rw [he]
  exact h

/-- Up to P3 nothing is stored. -/
theorem StoreStage.Done.atMostOnce {x : StoreStage} (hd : x.Done s u b) : StoredAtMostOnce s u b := by
  cases x
  case ahead => exact .inl (congrArg Ring.storage hd)
  case copied => exact .inl (congrArg Ring.storage hd.1)
  case room => exact .inl (congrArg Ring.storage hd.1)
  case past => exact hd

/-- A callback's next position gives its stage. -/
theorem storeStage_setIrqPos {c : IrqRun} (hi : u.irq = some c) (q : IrqPos) :
    (u.setIrqPos q).storeStage .rx = q.storeStage := by
  rw [setIrqPos_of hi]
  rfl

/-- ENQ's micro-steps store once at most (41_foreground.md R112). -/
theorem enqMicro_done {q : EnqPos} (hc : u.cfg = s.cfg) (hf : u.fg = some (.enq q)) (hd : (u.storeStage .tx).Done s u .tx)
    (h : fgMicro (.enq q) u = .next v) : (v.storeStage .tx).Done s v .tx := by
  simp only [State.storeStage, hf, Option.elim] at hd
  cases q
  case e1 =>
    obtain ⟨r, hr, rfl⟩ := enq_e1_next.mp h
    exact ⟨hd, hd ▸ hr⟩
  case e2 x r =>
    obtain ⟨w, hw, rfl⟩ := enq_e2_next.mp h
    split
    · unfold enqFull
      split
      · exact hd.atMostOnce
      · exact hd.1
    · next hne => exact hd.test hc hw hne
  case e3 =>
    obtain ⟨w, hw, rfl⟩ := enq_e3_next.mp h
    exact hd.store hc hw
  case e4 => obtain ⟨w, -, rfl⟩ := enq_e4_next.mp h; exact hd.of_eq rfl
  case e5 => obtain ⟨a, -, rfl⟩ := enq_e5_next.mp h; exact hd.of_eq rfl
  case e6 => obtain rfl := enq_e6_next.mp h; exact hd.of_eq (by simp)
  case e7 => obtain rfl := enq_e7_next.mp h; exact hd.of_eq (by simp)
  case e8 => obtain rfl := enq_e8_next.mp h; exact hd.of_eq rfl

/-- So do RXBYTE's (42_interrupt.md R131). -/
theorem rxbyteMicro_done {q : RxbytePos} {m : Bool} (hc : u.cfg = s.cfg) (hi : u.irq = some ⟨.rxbyte q, m⟩)
    (hd : (u.storeStage .rx).Done s u .rx) (h : irqMicro (.rxbyte q) u = .next v) : (v.storeStage .rx).Done s v .rx := by
  simp only [State.storeStage, hi, Option.elim] at hd
  cases q
  case b1 =>
    obtain ⟨-, r, hr, rfl⟩ := rxbyte_b1_next.mp h
    rw [storeStage_setIrqPos hi]
    exact ⟨hd, hd ▸ hr⟩
  case b2 x r =>
    obtain ⟨-, w, hw, rfl⟩ := rxbyte_b2_next.mp h
    split
    · exact hd.atMostOnce
    · next hne =>
      rw [storeStage_setIrqPos hi]
      exact hd.test hc hw hne
  case b3 x =>
    obtain ⟨-, w, hw, rfl⟩ := rxbyte_b3_next.mp h
    rw [storeStage_setIrqPos (u := u.memWrite .rx _ x) hi]
    exact hd.store hc hw
  case b4 => obtain ⟨-, w, -, rfl⟩ := rxbyte_b4_next.mp h; exact hd.of_eq rfl

/-- A micro-step of a buffer's producer keeps to one store at most, whichever buffer it is. -/
theorem microStep_done (hp : p = (producer b).port) (ho : u.opAt p = some (producer b)) (hc : u.cfg = s.cfg)
    (hd : (u.storeStage b).Done s u b) (h : microStep p u = .next v) : (v.storeStage b).Done s v b := by
  obtain ⟨-, ⟨rfl, ⟨q, hq, h⟩ | ⟨-, rfl⟩⟩ | ⟨rfl, ⟨⟨q, m⟩, hq, h⟩ | ⟨-, rfl⟩⟩⟩ := microStep_eq_next.mp h
  · cases b <;> cases hp
    have hop : q.op = producer .tx := by simpa [State.opAt, hq] using ho
    cases q <;> cases hop
    exact enqMicro_done hc hq hd h
  · exact hd
  · cases b <;> cases hp
    have hop : q.op = producer .rx := by simpa [State.opAt, hq] using ho
    cases q <;> cases hop
    exact rxbyteMicro_done hc hq hd h
  · exact hd

/-- A buffer's producer, run whole, stores once at most, and only where the buffer was not full. -/
theorem exec_stores {i : Instr} (hi : opOf i = producer b) (h : exec i s = .next t) : StoredAtMostOnce s t b := by
  have hp : i.port = (producer b).port := by rw [← hi, port_opOf]
  refine (exec_induction (P := fun u => u.cfg = s.cfg ∧ (u.storeStage b).Done s u b) ?start ?micro h).2.atMostOnce
  case start =>
    refine ⟨by simp, ?_⟩
    cases b <;> cases i <;> cases hi <;> rfl
  case micro =>
    rintro u v ho ⟨hc, hd⟩ h
    exact ⟨(microStep_cfg h).trans hc, microStep_done hp (hi ▸ ho) hc hd h⟩

theorem exec_storedAtMostOnce {i : Instr} (h : exec i s = .next t) (b : Buf) : StoredAtMostOnce s t b := by
  by_cases hi : opOf i = producer b
  · exact exec_stores hi h
  · exact .inl (exec_storage hi h)

theorem exec_memRead {i : Instr} (hne : opOf i ≠ producer b) (h : exec i s = .next t) (a : Nat) :
    t.memRead b a = s.memRead b a := by
  rw [State.memRead, exec_storage hne h, State.memRead]

end Sys2Proof.Machine

open Sys2Proof Sys2Proof.Machine

/-- Settles O31: an operation stores once at most, to the slot of the write index of the buffer it pushes to, and not when that is full. -/
theorem frameSlots : Obligations.FrameSlots := by
  unfold Obligations.FrameSlots
  intro i s t h
  have hs := exec_storedAtMostOnce h
  exact ⟨fun hi => exec_memRead (b := .tx) (opOf_ne_enq hi) h, fun hi => exec_memRead (b := .rx) (opOf_ne_rxbyte hi) h,
    fun w hw a => (hs .tx).memRead_ne hw, fun w hw a => (hs .rx).memRead_ne hw,
    fun hf => (hs .tx).memRead_full hf, fun hf => (hs .rx).memRead_full hf⟩

/-- Settles O39: turns, words, answers and positions leave both storages, and a micro-step leaves each or writes one slot of it. -/
theorem storageCanonical : Obligations.StorageCanonical := by
  unfold Obligations.StorageCanonical
  intro s t htx hrx h
  refine step_keeps (P := fun u => u.tx.storage.wf ∧ u.rx.storage.wf) ?drop ?words ?respond ?start ?micro ⟨htx, hrx⟩ h
  case drop => intro u hu; simpa using hu
  case words => intro u p ws hu; cases p <;> exact hu
  case respond => intro u hu; exact hu
  case start => intro u i v _ hu _; simpa using hu
  case micro =>
    rintro p u v ⟨htx, hrx⟩ h
    exact ⟨microStep_storage_wf (b := .tx) htx h, microStep_storage_wf (b := .rx) hrx h⟩

end

section
/-! SUPPORT. Command words by their three fields (30_encoding.md R71, R72): a word decodes to an operation exactly when its fields are the
operation's, which is when it is the operation's word. -/

namespace Sys2Proof

variable {w v : Word} {p : Port} {i j : Instr}

/-! ### The fields of a word -/

/-- A word is its three fields (30_encoding.md R71). -/
theorem word_ext (ho : opField w = opField v) (ha : argField w = argField v) (hd : dataField w = dataField v) : w = v := by
  simp only [opField, argField, dataField, ← BitVec.toNat_inj, BitVec.extractLsb'_toNat, Nat.shiftRight_eq_div_pow] at ho ha hd ⊢
  omega

/-- BIND's mask is `arg` without `arg[3]` (30_encoding.md R73). -/
theorem maskField_eq : maskField w = (argField w).setWidth 3 := by
  ext k hk
  simp [maskField, argField]
  omega

/-- The opcode of an operation (30_encoding.md R72). -/
def Instr.opcode : Instr → BitVec 4
  | .init => 0x1#4
  | .bind _ => 0x2#4
  | .enq _ => 0x3#4
  | .deq => 0x4#4
  | .rxcnt => 0x5#4
  | .txrdy => 0x8#4
  | .rxbyte _ => 0x9#4

/-- The argument field of an operation's word: BIND's mask under a zero `arg[3]`, else zero (30_encoding.md R71, R73). -/
def Instr.arg : Instr → BitVec 4
  | .bind m => m.setWidth 4
  | _ => 0x0#4

/-- The data field of an operation's word: its byte operand, else zero (30_encoding.md R71, R73). -/
def Instr.data : Instr → Byte
  | .enq b | .rxbyte b => b
  | _ => 0x00#8

/-- The word has the fields of the operation. -/
def Instr.HasFields (i : Instr) (w : Word) : Prop :=
  opField w = i.opcode ∧ argField w = i.arg ∧ dataField w = i.data

theorem hasFields_encode (i : Instr) : i.HasFields (encode i) := by
  unfold Instr.HasFields
  cases i
  case bind m => revert m; decide
  case enq b => revert b; decide
  case rxbyte b => revert b; decide
  all_goals decide

/-- The encoder writes the only word with an operation's fields. -/
theorem hasFields_iff : i.HasFields w ↔ encode i = w := by
  constructor
  · rintro ⟨ho, ha, hd⟩
    obtain ⟨ho', ha', hd'⟩ := hasFields_encode i
    exact word_ext (ho'.trans ho.symm) (ha'.trans ha.symm) (hd'.trans hd.symm)
  · rintro rfl
    exact hasFields_encode i

/-! ### Decoding reads the fields -/

theorem checkFields_eq_ok {argFree dataFree : Bool} :
    checkFields w argFree dataFree i = .ok j ↔
      (argFree = true ∨ argField w = 0#4) ∧ (dataFree = true ∨ dataField w = 0#8) ∧ i = j := by
  unfold checkFields
  split
  · simp_all
  · split <;> simp_all [or_iff_not_imp_left]

theorem checkFields_eq_error {argFree dataFree : Bool} :
    (∃ e, checkFields w argFree dataFree i = .error e) ↔
      (argFree = false ∧ argField w ≠ 0#4) ∨ (dataFree = false ∧ dataField w ≠ 0#8) := by
  unfold checkFields
  split
  · simp_all
  · split <;> simp_all

/-- BIND's `arg` is a mask under a zero `arg[3]`. -/
theorem arg_eq_mask {a : BitVec 4} {m : BitVec 3} : a = m.setWidth 4 ↔ a.getLsbD 3 = false ∧ a.setWidth 3 = m := by
  revert a m
  decide

theorem decodeBind_eq_ok : decodeBind w = .ok j ↔ ∃ m, argField w = m.setWidth 4 ∧ dataField w = 0#8 ∧ .bind m = j := by
  simp only [decodeBind, arg_eq_mask, maskField_eq]
  split <;> simp_all [checkFields_eq_ok]

theorem decodeBind_eq_error :
    (∃ e, decodeBind w = .error e) ↔ (argField w).getLsbD 3 = true ∨ dataField w ≠ 0#8 := by
  unfold decodeBind
  split <;> simp_all [checkFields_eq_error]

/-- Which fields a word must have to decode to an operation, opcode by opcode. -/
theorem decode_eq_ok : decode w = .ok i ↔ i.HasFields w := by
  unfold Instr.HasFields
  constructor
  · intro h
    unfold decode at h
    split at h
    case h_2 ho =>
      obtain ⟨m, ha, hd, rfl⟩ := decodeBind_eq_ok.mp h
      exact ⟨BitVec.eq_of_toNat_eq ho, ha, hd⟩
    case h_8 => cases h
    all_goals
      next ho =>
        obtain ⟨ha, hd, rfl⟩ := checkFields_eq_ok.mp h
        exact ⟨BitVec.eq_of_toNat_eq ho, by simpa [Instr.arg] using ha, by simp_all [Instr.data]⟩
  · rintro ⟨ho, ha, hd⟩
    cases i
    case bind m => simpa [decode, ho, Instr.opcode] using decodeBind_eq_ok.mpr ⟨m, ha, hd, rfl⟩
    all_goals simp_all [decode, Instr.opcode, Instr.arg, Instr.data, checkFields_eq_ok]

/-- Decoding inverts encoding, and nothing else decodes. -/
theorem decode_eq_ok_iff : decode w = .ok i ↔ encode i = w := decode_eq_ok.trans hasFields_iff

theorem decode_encode (i : Instr) : decode (encode i) = .ok i := decode_eq_ok_iff.mpr rfl

theorem decodeOn_encode (i : Instr) : decodeOn i.port (encode i) = .ok i := by
  simp [decodeOn, decode_encode, Instr.wellFormedOn]

/-! ### The opcode map -/

/-- Each operation's row is in the opcode map and is selected by its word, and `op[3]` of the word is its port. -/
theorem tableRow (i : Instr) : Laws.TableRow.Statement i := by
  cases i
  case init => exact Laws.TableRow.init
  case bind m => exact Laws.TableRow.bind m
  case enq b => exact Laws.TableRow.enq b
  case deq => exact Laws.TableRow.deq
  case rxcnt => exact Laws.TableRow.rxcnt
  case txrdy => exact Laws.TableRow.txrdy
  case rxbyte b => exact Laws.TableRow.rxbyte b

/-- A word selects a row field by field. -/
theorem selects_fields {r : OpRow} (h : r.selects w = true) :
    opField w &&& opField r.mask = opField r.pattern ∧ argField w &&& argField r.mask = argField r.pattern ∧
      dataField w &&& dataField r.mask = dataField r.pattern := by
  have h : w &&& r.mask = r.pattern := by simpa [OpRow.selects] using h
  simp [← h, opField, argField, dataField, BitVec.extractLsb'_and]

/-- A mask of ones selects the field whole. -/
theorem of_and_full {n : Nat} {a m c : BitVec n} (hm : m = BitVec.allOnes n) (h : a &&& m = c) : a = c := by
  rwa [hm, BitVec.and_allOnes] at h

/-- BIND's mask selects `arg[3]` (30_encoding.md R72). -/
theorem and_top {a : BitVec 4} : a &&& 0x8#4 = 0x0#4 ↔ a.getLsbD 3 = false := by
  revert a
  decide

/-- The operation of a word that selects a row: its operands are those the word's fields hold. -/
theorem exists_row_of_selects {r : OpRow} (hr : r ∈ opTable) (h : r.selects w = true) :
    ∃ i : Instr, i.HasFields w ∧ i.row = r := by
  obtain ⟨ho, ha, hd⟩ := selects_fields h
  simp only [opTable, List.mem_cons, List.not_mem_nil, or_false] at hr
  obtain rfl | rfl | rfl | rfl | rfl | rfl | rfl := hr
  · exact ⟨.init, ⟨of_and_full rfl ho, of_and_full rfl ha, of_and_full rfl hd⟩, rfl⟩
  · have harg : argField w = (maskField w).setWidth 4 := arg_eq_mask.mpr ⟨and_top.mp ha, maskField_eq.symm⟩
    exact ⟨.bind (maskField w), ⟨of_and_full rfl ho, harg, of_and_full rfl hd⟩, rfl⟩
  · exact ⟨.enq (dataField w), ⟨of_and_full rfl ho, of_and_full rfl ha, rfl⟩, rfl⟩
  · exact ⟨.deq, ⟨of_and_full rfl ho, of_and_full rfl ha, of_and_full rfl hd⟩, rfl⟩
  · exact ⟨.rxcnt, ⟨of_and_full rfl ho, of_and_full rfl ha, of_and_full rfl hd⟩, rfl⟩
  · exact ⟨.txrdy, ⟨of_and_full rfl ho, of_and_full rfl ha, of_and_full rfl hd⟩, rfl⟩
  · exact ⟨.rxbyte (dataField w), ⟨of_and_full rfl ho, of_and_full rfl ha, rfl⟩, rfl⟩

/-! ### Illegal words -/

theorem decode_eq_error : (∃ e, decode w = .error e) ↔
    (opField w).toNat ∈ [0x0, 0x6, 0x7, 0xA, 0xB, 0xC, 0xD, 0xE, 0xF] ∨
      ((opField w).toNat ∈ [0x1, 0x4, 0x5, 0x8] ∧ (argField w ≠ 0#4 ∨ dataField w ≠ 0#8)) ∨
      ((opField w).toNat = 0x2 ∧ ((argField w).getLsbD 3 = true ∨ dataField w ≠ 0#8)) ∨
      ((opField w).toNat ∈ [0x3, 0x9] ∧ argField w ≠ 0#4) := by
  unfold decode
  split
  case h_2 ho => simp [ho, decodeBind_eq_error]
  case h_8 =>
    have hlt := (opField w).isLt
    refine iff_of_true ⟨_, rfl⟩ (.inl ?_)
    simp only [imp_false, List.mem_cons, List.not_mem_nil, or_false] at *
    omega
  all_goals next ho => simp [ho, checkFields_eq_error]

/-- A word that decodes spells an operation of the port its `op[3]` says (30_encoding.md R71). -/
theorem portOfWord_of_decode (h : decode w = .ok i) : Machine.portOfWord w = i.port := by
  obtain ⟨-, -, -, hp, -⟩ := tableRow i
  rwa [decode_eq_ok_iff.mp h] at hp

/-- A word is illegal on a port when it spells nothing, or is of the other port. -/
theorem decodeOn_eq_error : (∃ e, decodeOn p w = .error e) ↔ (∃ e, decode w = .error e) ∨ Machine.portOfWord w ≠ p := by
  cases hd : decode w
  case error e => simp [decodeOn, hd]
  case ok i =>
    rw [portOfWord_of_decode hd]
    by_cases h : i.port = p <;> simp [decodeOn, hd, Instr.wellFormedOn, h]

theorem portOfWord_ne : Machine.portOfWord w ≠ p ↔
    (w.getLsbD 15 = true ∧ p = .fg) ∨ (w.getLsbD 15 = false ∧ p = .irq) := by
  unfold Machine.portOfWord
  cases w.getLsbD 15 <;> cases p <;> simp

end Sys2Proof

open Sys2Proof Sys2Proof.Machine

/-- Settles O1: the encoder's word has the operation's fields, and its port is the operation's own. -/
theorem decodeOfEncode : Obligations.DecodeOfEncode := by
  unfold Obligations.DecodeOfEncode
  exact decodeOn_encode

/-- Settles O2: decoding reads all three fields, and they are the whole word. -/
theorem encodeOfDecode : Obligations.EncodeOfDecode := by
  unfold Obligations.EncodeOfDecode
  exact fun w i => decode_eq_ok_iff.mp

/-- Settles O3: a row's mask and match say which fields the word has; and an operation's word selects the operation's row. -/
theorem rowsSelectOperations : Obligations.RowsSelectOperations := by
  unfold Obligations.RowsSelectOperations
  intro w row hr
  constructor
  · intro h
    obtain ⟨i, hi, hrow⟩ := exists_row_of_selects hr h
    exact ⟨i, decode_eq_ok.mpr hi, hrow⟩
  · rintro ⟨i, hi, rfl⟩
    obtain ⟨-, hs, -⟩ := tableRow i
    rwa [decode_eq_ok_iff.mp hi] at hs

/-- Settles O4: the decoder rejects by opcode and by fields, and the port is `op[3]`. -/
theorem illegalWords : Obligations.IllegalWords := by
  unfold Obligations.IllegalWords
  intro p w
  rw [decodeOn_eq_error, decode_eq_error, portOfWord_ne]
  simp only [or_assoc]

/-- Settles O5: each legal word is its operation's word, and the illegal two are decoded bit by bit. -/
theorem sampleWords : Obligations.SampleWords := by
  unfold Obligations.SampleWords
  exact ⟨decodeOn_encode .init, decodeOn_encode (.bind 0b101#3), decodeOn_encode (.enq 0x41#8), decodeOn_encode .deq,
    decodeOn_encode .rxcnt, decodeOn_encode .txrdy, decodeOn_encode (.rxbyte 0xA5#8), by decide, by decide⟩

end

section
/-! SUPPORT. What a run gives on the HOOK port and the FG port (30_encoding.md R70, R74 to R76): an operation in flight has at most one event and one
response to give, and each micro-step gives it or leaves it to those after it. -/

namespace Sys2Proof.Machine

variable {s t u : State} {p : Port} {e : HookEvent}

/-! ### What is given -/

/-- The events that are emitted: no operation disables the receiver (30_encoding.md R76). -/
def HookEvent.Emitted : HookEvent → Prop
  | .setRxEn b => b = true
  | _ => True

/-- A response's value fits its field (30_encoding.md R74). -/
def Response.Fits (c : Config) (r : Response) : Prop := r.value < 2 ^ valueWidth c

theorem HookEvent.word_of_emitted (h : e.Emitted) :
    (∃ v : Byte, e = .sendByte v ∧ e.word.toNat = v.toNat) ∨
      e.word = 0x101#10 ∨ e.word = 0x201#10 ∨ e.word = 0x200#10 := by
  cases e
  case sendByte v => exact .inl ⟨v, rfl, (BitVec.toNat_append 0b00#2 v).trans (by simp)⟩
  case setRxEn b =>
    obtain rfl : b = true := h
    exact .inr (.inl rfl)
  case setTxEn b =>
    cases b
    · exact .inr (.inr (.inr rfl))
    · exact .inr (.inr (.inl rfl))

theorem Response.word_toNat (c : Config) (r : Response) (h : r.Fits c) :
    (r.word c).toNat = r.status.code.toNat * 2 ^ valueWidth c + r.value := by
  have hv : (BitVec.ofNat (valueWidth c) r.value).toNat = r.value := Nat.mod_eq_of_lt h
  rw [Response.word, BitVec.toNat_append, hv, ← Nat.shiftLeft_add_eq_or_of_lt h, Nat.shiftLeft_eq]

theorem zero_fits (c : Config) : 0 < 2 ^ valueWidth c := by positivity

theorem byteValue_fits (c : Config) (v : Byte) : v.toNat < 2 ^ valueWidth c :=
  lt_of_lt_of_le v.isLt (Nat.pow_le_pow_right (by decide) (le_max_left _ _))

theorem counterSub_fits (c : Config) (a b : Nat) : counterSub c a b < 2 ^ valueWidth c :=
  lt_of_lt_of_le counterSub_lt (Nat.pow_le_pow_right (by decide) (le_max_right _ _))

/-- The second state has given these events and responses after those of the first. -/
structure Gives (es : List HookEvent) (rs : List Response) (s t : State) : Prop where
  cfg : t.cfg = s.cfg
  hookOut : t.hookOut = s.hookOut ++ es
  rspOut : t.rspOut = s.rspOut ++ rs
  emitted : ∀ e ∈ es, e.Emitted
  fits : ∀ r ∈ rs, r.Fits s.cfg

theorem Gives.trans {es es' : List HookEvent} {rs rs' : List Response} (h : Gives es rs s t) (h' : Gives es' rs' t u) :
    Gives (es ++ es') (rs ++ rs') s u where
  cfg := h'.cfg.trans h.cfg
  hookOut := by rw [h'.hookOut, h.hookOut, List.append_assoc]
  rspOut := by rw [h'.rspOut, h.rspOut, List.append_assoc]
  emitted x hx := (List.mem_append.mp hx).elim (h.emitted x) (h'.emitted x)
  fits r hr := (List.mem_append.mp hr).elim (h.fits r) fun hr => h.cfg ▸ h'.fits r hr

theorem gives_nothing (hc : t.cfg = s.cfg) (he : t.hookOut = s.hookOut) (hr : t.rspOut = s.rspOut) : Gives [] [] s t where
  cfg := hc
  hookOut := by simp [he]
  rspOut := by simp [hr]
  emitted := by simp
  fits := by simp

theorem gives_emit (he : e.Emitted) : Gives [e] [] s (s.emit e) where
  cfg := by cases e <;> rfl
  hookOut := by cases e <;> rfl
  rspOut := by cases e <;> simp
  emitted := by simpa using he
  fits := by simp

theorem gives_respond (st : Status) {v : Nat} (hv : v < 2 ^ valueWidth s.cfg) : Gives [] [⟨st, v⟩] s (s.respond st v) where
  cfg := rfl
  hookOut := by simp
  rspOut := rfl
  emitted := by simp
  fits := by simpa [Response.Fits] using hv

/-! ### What is yet to be given -/

/-- The events a foreground operation may yet emit: INIT's at I6 (41_foreground.md R110) and ENQ's at E7 (R113). -/
def FgPos.eventsLeft : FgPos → Nat
  | .init .i7 | .bind _ | .enq .e8 | .deq _ | .rxcnt _ => 0
  | _ => 1

/-- The events a callback may yet emit: TXRDY's at T5, or at T9 (42_interrupt.md R130). -/
def IrqPos.eventsLeft : IrqPos → Nat
  | .txrdy (.t6 _) | .txrdy .t7 | .txrdy (.t8 _) | .rxbyte _ => 0
  | _ => 1

/-- The events an agent's operation in flight may yet emit. -/
def State.eventsLeft (s : State) : Port → Nat
  | .fg => s.fg.elim 0 FgPos.eventsLeft
  | .irq => s.irq.elim 0 fun c => c.pos.eventsLeft

/-- The responses an agent's operation in flight has yet to give: FG's one (30_encoding.md R70). -/
def State.answersLeft (s : State) : Port → Nat
  | .fg => s.fg.elim 0 fun _ => 1
  | .irq => 0

theorem FgPos.eventsLeft_le (q : FgPos) : q.eventsLeft ≤ 1 := by
  unfold FgPos.eventsLeft
  split <;> decide

theorem IrqPos.eventsLeft_le (q : IrqPos) : q.eventsLeft ≤ 1 := by
  unfold IrqPos.eventsLeft
  split <;> decide

theorem State.eventsLeft_le (s : State) (p : Port) : s.eventsLeft p ≤ 1 := by
  cases p
  · cases h : s.fg <;> simp [State.eventsLeft, h, FgPos.eventsLeft_le]
  · cases h : s.irq <;> simp [State.eventsLeft, h, IrqPos.eventsLeft_le]

theorem State.answersLeft_le (s : State) (p : Port) : s.answersLeft p ≤ 1 := by
  cases p
  · cases h : s.fg <;> simp [State.answersLeft, h]
  · exact Nat.zero_le 1

/-- What an agent's micro-steps may have given from one state to another: no more than its operation had left to give. -/
def Outputs (p : Port) (s t : State) : Prop :=
  ∃ es rs, Gives es rs s t ∧ es.length + t.eventsLeft p ≤ s.eventsLeft p ∧ rs.length + t.answersLeft p ≤ s.answersLeft p

theorem Outputs.refl (p : Port) (s : State) : Outputs p s s := ⟨[], [], gives_nothing rfl rfl rfl, by simp, by simp⟩

theorem Outputs.trans (h : Outputs p s t) (h' : Outputs p t u) : Outputs p s u := by
  obtain ⟨es, rs, hg, he, hr⟩ := h
  obtain ⟨es', rs', hg', he', hr'⟩ := h'
  refine ⟨_, _, hg.trans hg', ?_, ?_⟩ <;> rw [List.length_append] <;> omega

/-! ### One micro-step -/

/-- FG goes on, having emitted what it no longer has to emit. -/
theorem outputs_setFg {q q' : FgPos} {es : List HookEvent} (hf : s.fg = some q) (hg : Gives es [] s u)
    (h : Nat.ble (es.length + q'.eventsLeft) q.eventsLeft = true) : Outputs .fg s (u.setFg (some q')) := by
  refine ⟨es, [], ⟨hg.cfg, hg.hookOut, hg.rspOut, hg.emitted, hg.fits⟩, ?_, ?_⟩
  · simpa [State.eventsLeft, hf] using Nat.le_of_ble_eq_true h
  · simp [State.answersLeft, hf]

/-- FG goes on and gives nothing. -/
theorem outputs_onward {q q' : FgPos} (hf : s.fg = some q) (hc : u.cfg = s.cfg) (he : u.hookOut = s.hookOut)
    (hr : u.rspOut = s.rspOut) (h : Nat.ble q'.eventsLeft q.eventsLeft = true) : Outputs .fg s (u.setFg (some q')) :=
  outputs_setFg hf (gives_nothing hc he hr) (by simpa using h)

/-- FG answers and has nothing left to give. -/
theorem outputs_returns {q : FgPos} (st : Status) {v : Nat} (hf : s.fg = some q) (hv : v < 2 ^ valueWidth s.cfg) :
    Outputs .fg s (s.returns st v) := by
  have hg := gives_respond st hv
  refine ⟨[], _, ⟨hg.cfg, hg.hookOut, hg.rspOut, hg.emitted, hg.fits⟩, ?_, ?_⟩
  · simp [State.eventsLeft]
  · simp [State.answersLeft, hf]

/-- FG has the one event before it, and calls the hook if that is bound (60_exceptions.md R151). -/
theorem outputs_emitIfBound {q q' : FgPos} (hf : s.fg = some q) (he : e.Emitted) (h : q.eventsLeft = 1)
    (h' : q'.eventsLeft = 0) : Outputs .fg s ((s.emitIfBound e).setFg (some q')) := by
  rcases emitIfBound_cases s e with hb | hb <;> rw [hb]
  · exact outputs_setFg hf (gives_emit he) (by rw [h, h']; rfl)
  · exact outputs_setFg hf (gives_nothing rfl rfl rfl) (by rw [h, h']; rfl)

theorem enqFull_outputs {b : Byte} {r : Nat} (hf : s.fg = some (.enq (.e2 b r))) : Outputs .fg s (enqFull b s) := by
  unfold enqFull
  split
  · exact outputs_returns _ hf (zero_fits _)
  · exact outputs_onward hf rfl rfl rfl rfl

theorem fgMicro_outputs {q : FgPos} (hf : s.fg = some q) (h : fgMicro q s = .next t) : Outputs .fg s t := by
  rcases q with q | q | q | q | q
  case init =>
    cases q
    case i1 => exact init_i1_next.mp h ▸ outputs_onward hf rfl rfl rfl rfl
    case i2 => exact init_i2_next.mp h ▸ outputs_onward hf rfl rfl rfl rfl
    case i3 => exact init_i3_next.mp h ▸ outputs_onward hf rfl rfl rfl rfl
    case i4 => exact init_i4_next.mp h ▸ outputs_onward hf rfl rfl rfl rfl
    case i5 => exact init_i5_next.mp h ▸ outputs_onward hf rfl rfl rfl rfl
    case i6 => exact init_i6_next.mp h ▸ outputs_emitIfBound hf rfl rfl rfl
    case i7 => exact init_i7_next.mp h ▸ outputs_returns _ hf (zero_fits _)
  case bind =>
    cases q
    case h1 => exact bind_h1_next.mp h ▸ outputs_onward hf rfl rfl rfl rfl
    case h2 => exact bind_h2_next.mp h ▸ outputs_returns _ hf (zero_fits _)
  case enq =>
    cases q
    case e1 => obtain ⟨r, -, rfl⟩ := enq_e1_next.mp h; exact outputs_onward hf rfl rfl rfl rfl
    case e2 =>
      obtain ⟨w, -, rfl⟩ := enq_e2_next.mp h
      split
      · exact enqFull_outputs hf
      · exact outputs_onward hf rfl rfl rfl rfl
    case e3 => obtain ⟨w, -, rfl⟩ := enq_e3_next.mp h; exact outputs_onward hf rfl rfl rfl rfl
    case e4 => obtain ⟨w, -, rfl⟩ := enq_e4_next.mp h; exact outputs_onward hf rfl rfl rfl rfl
    case e5 => obtain ⟨a, -, rfl⟩ := enq_e5_next.mp h; exact outputs_onward hf rfl rfl rfl rfl
    case e6 a => cases a <;> exact enq_e6_next.mp h ▸ outputs_onward hf rfl rfl rfl rfl
    case e7 a =>
      obtain rfl := enq_e7_next.mp h
      cases a
      · exact outputs_emitIfBound hf trivial rfl rfl
      · exact outputs_onward hf rfl rfl rfl rfl
    case e8 => exact enq_e8_next.mp h ▸ outputs_returns _ hf (zero_fits _)
  case deq =>
    cases q
    case q1 => obtain ⟨w, -, rfl⟩ := deq_q1_next.mp h; exact outputs_onward hf rfl rfl rfl rfl
    case q2 =>
      obtain ⟨r, -, rfl⟩ := deq_q2_next.mp h
      split
      · exact outputs_returns _ hf (zero_fits _)
      · exact outputs_onward hf rfl rfl rfl rfl
    case q3 => obtain ⟨r, v, -, -, rfl⟩ := deq_q3_next.mp h; exact outputs_onward hf rfl rfl rfl rfl
    case q4 => obtain ⟨r, -, rfl⟩ := deq_q4_next.mp h; exact outputs_onward hf rfl rfl rfl rfl
    case q5 v => exact deq_q5_next.mp h ▸ outputs_returns _ hf (byteValue_fits _ v)
  case rxcnt =>
    cases q
    case n1 => obtain ⟨w, -, rfl⟩ := rxcnt_n1_next.mp h; exact outputs_onward hf rfl rfl rfl rfl
    case n2 => obtain ⟨r, -, rfl⟩ := rxcnt_n2_next.mp h; exact outputs_returns _ hf (counterSub_fits _ _ _)

/-- A callback goes on, having emitted what it no longer has to emit. -/
theorem outputs_setIrqPos {c : IrqRun} {q' : IrqPos} {es : List HookEvent} (hi : s.irq = some c) (hg : Gives es [] s u)
    (h : Nat.ble (es.length + q'.eventsLeft) c.pos.eventsLeft = true) : Outputs .irq s (u.setIrqPos q') := by
  refine ⟨es, [], ⟨hg.cfg, hg.hookOut, hg.rspOut, hg.emitted, hg.fits⟩, ?_, Nat.le_refl 0⟩
  have h := Nat.le_of_ble_eq_true h
  cases hu : u.irq <;> simp [State.eventsLeft, State.setIrqPos, hu, hi] <;> omega

/-- A callback ends. -/
theorem outputs_endCallback {c : IrqRun} {es : List HookEvent} (hi : s.irq = some c) (hg : Gives es [] s u)
    (h : Nat.ble es.length c.pos.eventsLeft = true) : Outputs .irq s u.endCallback := by
  refine ⟨es, [], ⟨hg.cfg, hg.hookOut, hg.rspOut, hg.emitted, hg.fits⟩, ?_, Nat.le_refl 0⟩
  simpa [State.eventsLeft, hi] using Nat.le_of_ble_eq_true h

theorem irqMicro_outputs {q : IrqPos} {z : Bool} (hi : s.irq = some ⟨q, z⟩) (h : irqMicro q s = .next t) : Outputs .irq s t := by
  have hg : Gives [] [] s s := gives_nothing rfl rfl rfl
  rcases q with q | q
  case txrdy =>
    cases q
    case t1 => obtain ⟨-, -, rfl⟩ := txrdy_t1_next.mp h; exact outputs_setIrqPos hi hg rfl
    case t2 => obtain ⟨-, w, -, rfl⟩ := txrdy_t2_next.mp h; exact outputs_setIrqPos hi hg rfl
    case t3 =>
      obtain ⟨-, r, -, rfl⟩ := txrdy_t3_next.mp h
      split
      · exact outputs_setIrqPos hi hg rfl
      · exact outputs_setIrqPos hi hg rfl
    case t4 => obtain ⟨-, r, v, -, -, rfl⟩ := txrdy_t4_next.mp h; exact outputs_setIrqPos hi hg rfl
    case t5 => obtain ⟨-, rfl⟩ := txrdy_t5_next.mp h; exact outputs_setIrqPos hi (gives_emit trivial) rfl
    case t6 => obtain ⟨-, r, -, rfl⟩ := txrdy_t6_next.mp h; exact outputs_setIrqPos hi (gives_nothing rfl rfl rfl) rfl
    case t7 => obtain ⟨-, w, -, rfl⟩ := txrdy_t7_next.mp h; exact outputs_setIrqPos hi hg rfl
    case t8 =>
      obtain ⟨-, r, -, rfl⟩ := txrdy_t8_next.mp h
      exact outputs_endCallback hi (gives_nothing (by simp) (by simp) (by simp)) rfl
    case t9 =>
      obtain ⟨-, rfl⟩ := txrdy_t9_next.mp h
      rcases emitIfBound_cases s (.setTxEn false) with hb | hb <;> rw [hb]
      · exact outputs_endCallback hi (gives_emit trivial) rfl
      · exact outputs_endCallback hi hg rfl
  case rxbyte =>
    cases q
    case b1 => obtain ⟨-, r, -, rfl⟩ := rxbyte_b1_next.mp h; exact outputs_setIrqPos hi hg rfl
    case b2 =>
      obtain ⟨-, w, -, rfl⟩ := rxbyte_b2_next.mp h
      split
      · exact outputs_endCallback hi hg rfl
      · exact outputs_setIrqPos hi hg rfl
    case b3 => obtain ⟨-, w, -, rfl⟩ := rxbyte_b3_next.mp h; exact outputs_setIrqPos hi (gives_nothing rfl rfl rfl) rfl
    case b4 => obtain ⟨-, w, -, rfl⟩ := rxbyte_b4_next.mp h; exact outputs_endCallback hi (gives_nothing rfl rfl rfl) rfl

/-- Every micro-step gives what it takes off its operation's events and responses to come. -/
theorem microStep_outputs (h : microStep p s = .next t) : Outputs p s t := by
  obtain ⟨-, ⟨rfl, ⟨q, hq, h⟩ | ⟨-, rfl⟩⟩ | ⟨rfl, ⟨c, hc, h⟩ | ⟨-, rfl⟩⟩⟩ := microStep_eq_next.mp h
  · exact fgMicro_outputs hq h
  · exact .refl _ _
  · exact irqMicro_outputs hc h
  · exact .refl _ _

theorem runMicro_outputs {n : Nat} (h : runMicro p n s = .next t) : Outputs p s t :=
  runMicro_keeps (P := Outputs p s) (fun _ _ hu h => hu.trans (microStep_outputs h)) n (.refl p s) h

/-! ### A step -/

/-- At most one event and one response are given between the two states. -/
def GivesOnce (s t : State) : Prop := ∃ es rs, Gives es rs s t ∧ es.length ≤ 1 ∧ rs.length ≤ 1

theorem Outputs.once (h : Outputs p s t) : GivesOnce s t := by
  obtain ⟨es, rs, hg, he, hr⟩ := h
  have := s.eventsLeft_le p
  have := s.answersLeft_le p
  exact ⟨es, rs, hg, by omega, by omega⟩

theorem GivesOnce.of_same (hg : Gives [] [] s u) (h : GivesOnce u t) : GivesOnce s t := by
  obtain ⟨es, rs, hg', he, hr⟩ := h
  exact ⟨_, _, hg.trans hg', he, hr⟩

theorem gives_dropTurn (s : State) : Gives [] [] s s.dropTurn := gives_nothing (by simp) (by simp) (by simp)

theorem gives_setWords (s : State) (p : Port) (ws : List Word) : Gives [] [] s (s.setWords p ws) := by
  cases p <;> exact gives_nothing rfl rfl rfl

theorem gives_startAt (i : Instr) (s : State) : Gives [] [] s (startAt i s) := by
  cases i <;> exact gives_nothing rfl rfl rfl

/-- A step gives what one operation in flight, one operation begun, or one illegal word gives. -/
theorem step_givesOnce (h : step s = .next t) : GivesOnce s t := by
  obtain ⟨-, p, -, hc⟩ := step_cases h
  refine .of_same (gives_dropTurn s) ?_
  rcases hc with ⟨-, h | h⟩ | ⟨-, -, rfl⟩ | ⟨w, ws, er, -, -, -, -, rfl⟩ | ⟨w, ws, i, -, -, -, h | h⟩
  · exact (microStep_outputs h).once
  · exact (runMicro_outputs h).once
  · exact (Outputs.refl p _).once
  · exact .of_same (gives_setWords _ p ws) ⟨_, _, gives_respond _ (zero_fits _), Nat.zero_le 1, Nat.le_refl 1⟩
  · obtain ⟨-, -, h⟩ := exec_first h
    exact .of_same (gives_setWords _ p ws) (.of_same (gives_startAt i _) (runMicro_outputs h).once)
  · unfold issueMicro at h
    split at h
    · cases h
    · exact .of_same (gives_setWords _ p ws) (.of_same (gives_startAt i _) (microStep_outputs h).once)

/-- An illegal word on an idle agent's port (30_encoding.md R77). -/
theorem step_of_illegal {w : Word} {ws : List Word} {er : DecodeError} (hb : s.inBounds = true) (hm : s.mover s.turnOf = p)
    (hf : s.inFlight p = false) (hw : s.words p = w :: ws) (hd : decodeOn p w = .error er) :
    step s = illegal p (s.dropTurn.setWords p ws) := by
  rw [step_of_idle hm hf, ifInBounds_of hb]
  simp [takeWord, hw, hd]

end Sys2Proof.Machine

open Sys2Proof Sys2Proof.Machine

/-- Settles O42: an operation has one event and one response to give, and the events it emits have the words listed. -/
theorem emittedWords : Obligations.EmittedWords := by
  unfold Obligations.EmittedWords
  intro s t h
  obtain ⟨es, rs, hg, he, hr⟩ := step_givesOnce h
  exact ⟨es, rs, hg.hookOut, hg.rspOut, he, hr, fun e h => HookEvent.word_of_emitted (hg.emitted e h)⟩

/-- Settles O43: the word is the code over the value, and the responses a step gives are 0, a byte or a counter difference. -/
theorem responseWords : Obligations.ResponseWords := by
  unfold Obligations.ResponseWords
  constructor
  · intro c r hr
    rw [Response.word_toNat c r hr]
    cases r.status <;> rfl
  · intro s t hs h r hr
    obtain ⟨es, rs, hg, -, -⟩ := step_givesOnce h
    rw [hg.rspOut, List.mem_append] at hr
    rw [hg.cfg]
    exact hr.elim (hs r) (hg.fits r)

/-- Settles O14: FG answers, and the IRQ port has no response. -/
theorem illegalWordOutcome : Obligations.IllegalWordOutcome := by
  unfold Obligations.IllegalWordOutcome
  intro s w ws e hb
  constructor
  · intro hm hf hw hd
    rw [step_of_illegal (p := .fg) hb hm (by simp [hf]) hw hd, ← State.dropTurn_rspOut]
    rfl
  · intro hm hi hw hd
    rw [step_of_illegal (p := .irq) hb hm (by simp [hi]) hw hd]
    rfl

end

section
/-! SUPPORT. First in, first out (40_ringbuffer.md R97, R99): what a store, a push and a pop do to the bytes a buffer holds, where its producer and its
consumer are at the stage of PUSH or POP before it; and that of each agent's micro-steps only ENQ's E4, DEQ's Q4, RXBYTE's B4 and TXRDY's T6 are a push or
a pop (20_memory.md R55, R56). -/

namespace Sys2Proof.Machine

variable {s t : State} {b : Buf} {w r : Nat} {v : Byte} {x : PushStage} {y : PopStage}

/-! ### The bytes of one buffer -/

/-- P3 is not seen: the slot stored to is none of the queued ones (40_ringbuffer.md R100). -/
theorem RingOk.store_queue (h : RingOk s b .room y) (hw : (s.ring b).writeIndex = some w) :
    (s.memWrite b (slotOf s.cfg b w) v).queue b = s.queue b := by
  obtain ⟨-, w', r, hw', hr, -, hlt, -⟩ := h
  obtain rfl : w' = w := Option.some.inj (hw'.symm.trans hw)
  exact queue_store hw hr hlt (memWrite_ring s b _ v) (memWrite_cfg s b _ v)

/-- P4 makes the byte stored the newest (20_memory.md R55). -/
theorem RingOk.push_queue (h : RingOk s b (.stored v) y) (hw : (s.ring b).writeIndex = some w) :
    (s.setWriteIndex b (counterInc s.cfg w)).queue b = s.queue b ++ [some v] := by
  obtain ⟨-, w', r, hw', hr, -, ⟨hlt, hv⟩, -⟩ := h
  obtain rfl : w' = w := Option.some.inj (hw'.symm.trans hw)
  exact queue_push hw hr hlt hv (setWriteIndex_ring s b _) (setWriteIndex_cfg s b _)

/-- O4 takes the byte loaded, the oldest (20_memory.md R56). -/
theorem RingOk.pop_queue (h : RingOk s b x (.loaded v)) (hr : (s.ring b).readIndex = some r) :
    s.queue b = some v :: (s.setReadIndex b (counterInc s.cfg r)).queue b := by
  obtain ⟨-, w, r', hw, hr', -, -, ⟨hpos, hv⟩⟩ := h
  obtain rfl : r' = r := Option.some.inj (hr'.symm.trans hr)
  exact queue_pop hw hr hpos hv (setReadIndex_ring s b _) (setReadIndex_cfg s b _)

/-- The byte loaded at O3 is the oldest. -/
theorem RingOk.loaded_queue (h : RingOk s b x (.loaded v)) : (s.queue b).head? = some (some v) := by
  obtain ⟨-, -, r, -, hr, -⟩ := id h
  rw [h.pop_queue hr, List.head?_cons]

/-! ### What the agents have established at a micro-step that answers -/

/-- FG's micro-steps outside an INIT answer in settled buffers, but for BIND, which may come before the first INIT. -/
theorem buffersOk_of_fgMicro {q : FgPos} (hi : s.Inv) (hf : s.fg = some q) (hq : q.op ≠ .init)
    (e : fgMicro q s = .next t) :
    (∃ p, q = .bind p) ∨ BuffersOk s (fgPush (some q)) (irqPop s.irq) (irqPush s.irq) (fgPop (some q)) := by
  have hn : s.inInit = false := inInit_of_op hf hq
  obtain ⟨-, -, c | c⟩ := (inv_iff hn).mp hi
  · exact .inl ((fresh_fgMicro c hf e).resolve_left fun hq' => hq (by rw [hq']; rfl))
  · exact .inr (hf ▸ (inv_and_settled_iff hn).mp ⟨hi, c⟩)

/-- A callback's micro-steps answer in settled buffers, but for T1, which may come before the first INIT. -/
theorem buffersOk_of_irqMicro {c : IrqRun} (hi : s.Inv) (hc : s.irq = some c) (e : irqMicro c.pos s = .next t) :
    c.pos = .txrdy .t1 ∨
      BuffersOk s (fgPush s.fg) (irqPop (some ⟨c.pos, false⟩)) (irqPush (some ⟨c.pos, false⟩)) (fgPop s.fg) := by
  obtain ⟨hn, hm⟩ := not_raced (irqMicro_eq_next.mp e).1 hc
  obtain ⟨q, m⟩ := c
  obtain rfl : m = false := hm
  obtain ⟨-, -, f | f⟩ := (inv_iff hn).mp hi
  · exact .inl (fresh_irqMicro f hc e)
  · exact .inr (hc ▸ (inv_and_settled_iff hn).mp ⟨hi, f⟩)

/-! ### FG -/

/-- FG's next micro-step pushes at E4, pops at Q4 and does neither elsewhere. -/
theorem FgPos.queue_cases (q : FgPos) :
    (∃ b, q = .enq (.e4 b)) ∨ (∃ v, q = .deq (.q4 v)) ∨ q.pushesTx = [] ∧ q.popsRx = [] := by
  unfold FgPos.pushesTx FgPos.popsRx
  split
  · exact .inl ⟨_, rfl⟩
  · split
    · exact .inr (.inl ⟨_, rfl⟩)
    · exact .inr (.inr ⟨rfl, rfl⟩)

theorem FgPos.op_ne_init {q : FgPos} (h : ∀ p, q ≠ .init p) : q.op ≠ .init := by
  cases q
  case init p => exact absurd rfl (h p)
  all_goals exact nofun

/-- A micro-step of FG that neither pushes nor pops leaves what both buffers hold. -/
theorem fgMicro_queues_kept {q : FgPos} (hi : s.Inv) (hf : s.fg = some q) (hq : q.op ≠ .init) (hpush : q.pushesTx = [])
    (hpop : q.popsRx = []) (e : fgMicro q s = .next t) : ∀ b, t.queue b = s.queue b := by
  have h := buffersOk_of_fgMicro hi hf hq e
  obtain ⟨u, z, hu, rfl, -⟩ := fgMicro_effect e
  suffices hk : ∀ b, u.queue b = s.queue b from fun b => (queue_congr (by cases b <;> rfl) rfl).trans (hk b)
  cases hu
  case store x w hw =>
    have hb := h.resolve_left nofun
    rintro (_ | _)
    · exact hb.tx.store_queue hw
    · exact queue_congr rfl rfl
  case push => cases hpush
  case pop => cases hpop
  case nothing => exact fun b => rfl
  case answer | bind | arm | kick => exact fun b => queue_congr (by cases b <;> rfl) rfl
  all_goals exact absurd rfl hq

theorem fgMicro_queues {q : FgPos} (hi : s.Inv) (hf : s.fg = some q) (hq : q.op ≠ .init) (e : fgMicro q s = .next t) :
    t.queue .tx = s.queue .tx ++ q.pushesTx ∧ s.queue .rx = q.popsRx ++ t.queue .rx := by
  have h := buffersOk_of_fgMicro hi hf hq e
  obtain ⟨b, rfl⟩ | ⟨v, rfl⟩ | ⟨hpush, hpop⟩ := q.queue_cases
  · obtain ⟨w, hw, rfl⟩ := enq_e4_next.mp e
    exact ⟨(h.resolve_left nofun).tx.push_queue hw, queue_congr rfl rfl⟩
  · obtain ⟨r, hr, rfl⟩ := deq_q4_next.mp e
    exact ⟨(List.append_nil _).symm, (h.resolve_left nofun).rx.pop_queue hr⟩
  · have hk := fgMicro_queues_kept hi hf hq hpush hpop e
    rw [hpush, hpop, hk, hk]
    exact ⟨(List.append_nil _).symm, rfl⟩

/-! ### The callbacks -/

/-- The callback's next micro-step pushes at B4, pops at T6 and does neither elsewhere. -/
theorem IrqPos.queue_cases (q : IrqPos) :
    (∃ b, q = .rxbyte (.b4 b)) ∨ (∃ v, q = .txrdy (.t6 v)) ∨ q.pushesRx = [] ∧ q.popsTx = [] := by
  unfold IrqPos.pushesRx IrqPos.popsTx
  split
  · exact .inl ⟨_, rfl⟩
  · split
    · exact .inr (.inl ⟨_, rfl⟩)
    · exact .inr (.inr ⟨rfl, rfl⟩)

theorem IrqPos.sends_cases (q : IrqPos) : (∃ v, q = .txrdy (.t5 v)) ∨ q.sends = [] := by
  unfold IrqPos.sends
  split
  · exact .inl ⟨_, rfl⟩
  · exact .inr rfl

/-- A callback's micro-step is one of its updates, and then changes only where the callback is. -/
theorem irqMicro_update {q : IrqPos} (e : irqMicro q s = .next t) : ∃ u z, IrqEffect s q u ∧ t = { u with irq := z } := by
  obtain ⟨-, u, hu, rfl | ⟨q', rfl, -⟩⟩ := irqMicro_effect e
  · exact ⟨u, _, hu, rfl⟩
  · exact ⟨u, _, hu, rfl⟩

/-- A micro-step of a callback that neither pushes nor pops leaves what both buffers hold. -/
theorem irqMicro_queues_kept {c : IrqRun} (hi : s.Inv) (hc : s.irq = some c) (hpush : c.pos.pushesRx = [])
    (hpop : c.pos.popsTx = []) (e : irqMicro c.pos s = .next t) : ∀ b, t.queue b = s.queue b := by
  have h := buffersOk_of_irqMicro hi hc e
  obtain ⟨u, z, hu, rfl⟩ := irqMicro_update e
  suffices hk : ∀ b, u.queue b = s.queue b from fun b => (queue_congr (by cases b <;> rfl) rfl).trans (hk b)
  obtain ⟨q, m⟩ := c
  cases hu
  case store x w hw =>
    have hb := h.resolve_left nofun
    rintro (_ | _)
    · exact queue_congr rfl rfl
    · exact hb.rx.store_queue hw
  case push => cases hpush
  case pop => cases hpop
  case nothing => exact fun b => rfl
  case send | disarm | disableTx => exact fun b => queue_congr (by cases b <;> rfl) rfl

theorem irqMicro_queues {c : IrqRun} (hi : s.Inv) (hc : s.irq = some c) (e : irqMicro c.pos s = .next t) :
    t.queue .rx = s.queue .rx ++ c.pos.pushesRx ∧ s.queue .tx = c.pos.popsTx ++ t.queue .tx := by
  have h := buffersOk_of_irqMicro hi hc e
  obtain ⟨b, hb⟩ | ⟨v, hv⟩ | ⟨hpush, hpop⟩ := c.pos.queue_cases
  · rw [hb] at h e ⊢
    obtain ⟨-, w, hw, rfl⟩ := rxbyte_b4_next.mp e
    exact ⟨(h.resolve_left nofun).rx.push_queue hw, queue_congr rfl rfl⟩
  · rw [hv] at h e ⊢
    obtain ⟨-, r, hr, rfl⟩ := txrdy_t6_next.mp e
    exact ⟨(List.append_nil _).symm, (h.resolve_left nofun).tx.pop_queue hr⟩
  · have hk := irqMicro_queues_kept hi hc hpush hpop e
    rw [hpush, hpop, hk, hk]
    exact ⟨(List.append_nil _).symm, rfl⟩

/-- What T5 is about to send is the oldest byte of `tx`. -/
theorem irqMicro_sends_oldest {c : IrqRun} (hi : s.Inv) (hc : s.irq = some c) (e : irqMicro c.pos s = .next t)
    (hv : v ∈ c.pos.sends) : (s.queue .tx).head? = some (some v) := by
  have h := buffersOk_of_irqMicro hi hc e
  obtain ⟨v', hq⟩ | hq := c.pos.sends_cases <;> rw [hq] at hv
  · rw [hq] at h
    obtain rfl : v = v' := List.mem_singleton.mp hv
    exact (h.resolve_left nofun).tx.loaded_queue
  · cases hv

/-- A callback's micro-step emits T5's byte, and no other byte. -/
theorem irqMicro_sends {q : IrqPos} (e : irqMicro q s = .next t) :
    HookEvent.sendByte v ∈ t.hookOut.drop s.hookOut.length ↔ v ∈ q.sends := by
  obtain ⟨v', rfl⟩ | hq := q.sends_cases
  · obtain ⟨-, rfl⟩ := txrdy_t5_next.mp e
    simp [IrqPos.sends]
  · obtain ⟨u, z, hu, rfl⟩ := irqMicro_update e
    rw [hq]
    cases hu
    case send => cases hq
    all_goals simp

/-! ### Counters and slots -/

theorem exists_cap_eq_two_pow (c : Config) (b : Buf) : ∃ k, c.cap b = 2 ^ k := by
  cases b
  · exact ⟨c.kTx, rfl⟩
  · exact ⟨c.kRx, rfl⟩

/-- Masking with `CAP - 1` keeps the low bits (40_ringbuffer.md R92). -/
theorem slotOf_testBit {c : Config} {k : Nat} (hk : c.cap b = 2 ^ k) (i n : Nat) :
    (slotOf c b i).testBit n = (decide (n < k) && i.testBit n) := by
  rw [slotOf_eq, hk, Nat.testBit_mod_two_pow]

/-- The slot after an increment is the next one, through the overflow (40_ringbuffer.md R92). -/
theorem slotOf_counterInc (c : Config) (b : Buf) (i : Nat) : slotOf c b (counterInc c i) = (slotOf c b i + 1) % c.cap b := by
  rw [counterInc, slotOf_mod, slotOf_eq, slotOf_eq, Nat.mod_add_mod]

/-- The increment passes from the last counter value to 0 (40_ringbuffer.md R91). -/
theorem counterInc_last (c : Config) : counterInc c (2 ^ c.idxW - 1) = 0 := by
  rw [counterInc, Nat.sub_add_cancel Nat.one_le_two_pow, Nat.mod_self]

end Sys2Proof.Machine

open Sys2Proof Sys2Proof.Machine

/-- Settles O44, by the micro-step's position: E4 is a push, Q4 a pop, and E3's store is to no queued slot. -/
theorem foregroundQueues : Obligations.ForegroundQueues := by
  unfold Obligations.ForegroundQueues
  intro s t q hi hf hq h
  rw [microStep_fg (Inv_inBounds hi) hf] at h
  exact fgMicro_queues hi hf (FgPos.op_ne_init hq) h

/-- Settles O45, by the micro-step's position: B4 is a push, T6 a pop, and T5 sends the byte T4 has loaded. -/
theorem callbackQueues : Obligations.CallbackQueues := by
  unfold Obligations.CallbackQueues
  intro s t c hi hc h
  rw [microStep_irq (Inv_inBounds hi) hc] at h
  obtain ⟨hrx, htx⟩ := irqMicro_queues hi hc h
  exact ⟨hrx, htx, fun v => irqMicro_sends_oldest hi hc h, fun v => irqMicro_sends h⟩

/-- Settles O6, clause by clause. -/
theorem counterArithmetic : Obligations.CounterArithmetic := by
  unfold Obligations.CounterArithmetic
  intro c a b ha hb
  exact ⟨counterSub_lt, counterSub_of_le ha, counterSub_of_gt hb, counterInc_last c, Nat.mod_eq_of_lt⟩

/-- Settles O7: the capacity is a power of two, so masking is the remainder, which keeps the low bits. -/
theorem slotMasking : Obligations.SlotMasking := by
  unfold Obligations.SlotMasking
  intro c b i
  obtain ⟨k, hk⟩ := exists_cap_eq_two_pow c b
  exact ⟨⟨k, hk, slotOf_testBit hk i⟩, slotOf_eq c b i, slotOf_counterInc c b i⟩

/-- Settles O8: the totals are no further apart than the capacity, which is below the counters' range. -/
theorem occupancyExact : Obligations.OccupancyExact := by
  unfold Obligations.OccupancyExact
  intro c b p q hle hcap
  have hrange := cap_lt c b
  exact counterSub_of_mod hle (by omega)

end

section
/-! SUPPORT. The foreground operations run whole (41_foreground.md R110 to R117): each is the chain of its labelled micro-steps, and
every micro-step is nearer to the operation's end but for the one that leads a held ENQ back to E1. -/

namespace Sys2Proof.Machine

variable {s t : State} {b : Buf} {v : Byte} {w r : Nat}

/-! ### Chains of FG's micro-steps -/

/-- With no foreground operation in flight, a state with a meaning is one with both buffers within bounds. -/
theorem within_of_idle (hb : s.inBounds = true) (hf : s.fg = none) (b : Buf) : s.within b = true := by
  obtain ⟨htx, hrx⟩ := (inBounds_iff (by simp [State.inInit, hf])).mp hb
  cases b
  · exact htx
  · exact hrx

/-- A run of FG goes on after a micro-step that answers, the buffers within bounds. -/
theorem runMicro_fg_onward {n : Nat} {q : FgPos} (hb : ∀ b, s.within b = true) (hf : s.fg = some q)
    (h : fgMicro q s = .next t) (hh : t.heldAtE1 = false) : runMicro .fg (n + 1) s = runMicro .fg n t :=
  runMicro_fg_succ (inBounds_of_within (hb .tx) (hb .rx)) hf h hh

/-- BIND's whole effect (41_foreground.md R111). -/
theorem exec_bind (m : BitVec 3) (hb : s.inBounds = true) (hf : s.fg = none) :
    exec (.bind m) s = .next { s with hooks := m, rspOut := s.rspOut ++ [⟨.ok, 0⟩] } := by
  have hin := within_of_idle hb hf
  rw [exec_of_idle (by simp [Instr.port, hf])]
  refine Eq.trans (runMicro_fg_onward hin rfl (bind_h1_next.mpr rfl) rfl) ?_
  refine Eq.trans (runMicro_fg_onward hin rfl (bind_h2_next.mpr rfl) rfl) ?_
  rw [runMicro_idle rfl]
  congr 1
  ext <;> simp [startAt, hf]

/-- RXCNT's whole effect (41_foreground.md R116). -/
theorem exec_rxcnt (hb : s.inBounds = true) (hf : s.fg = none) (hw : s.rx.writeIndex = some w)
    (hr : s.rx.readIndex = some r) :
    exec .rxcnt s = .next { s with rspOut := s.rspOut ++ [⟨.ok, counterSub s.cfg w r⟩] } := by
  have hin := within_of_idle hb hf
  rw [exec_of_idle (by simp [Instr.port, hf])]
  refine Eq.trans (runMicro_fg_onward hin rfl (rxcnt_n1_next.mpr ⟨w, hw, rfl⟩) rfl) ?_
  refine Eq.trans (runMicro_fg_onward hin rfl (rxcnt_n2_next.mpr ⟨r, hr, rfl⟩) rfl) ?_
  rw [runMicro_idle rfl]
  congr 1
  ext <;> simp [startAt, hf]

/-- DEQ's whole effect on an empty buffer (41_foreground.md R115). -/
theorem exec_deq_empty (hb : s.inBounds = true) (hf : s.fg = none) (hw : s.rx.writeIndex = some w)
    (hr : s.rx.readIndex = some r) (h0 : counterSub s.cfg w r = 0) :
    exec .deq s = .next { s with rspOut := s.rspOut ++ [⟨.bufferEmpty, 0⟩] } := by
  have hin := within_of_idle hb hf
  rw [exec_of_idle (by simp [Instr.port, hf])]
  refine Eq.trans (runMicro_fg_onward hin rfl (deq_q1_next.mpr ⟨w, hw, rfl⟩) rfl) ?_
  refine Eq.trans (runMicro_fg_onward hin rfl (deq_q2_next.mpr ⟨r, hr, (if_pos h0).symm⟩) rfl) ?_
  rw [runMicro_idle rfl]
  congr 1
  ext <;> simp [startAt, hf]

/-- DEQ's whole effect with a byte pending (41_foreground.md R115). -/
theorem exec_deq_pending (hb : s.inBounds = true) (hf : s.fg = none) (hw : s.rx.writeIndex = some w)
    (hr : s.rx.readIndex = some r) (hne : counterSub s.cfg w r ≠ 0) (hv : s.memRead .rx (slotOf s.cfg .rx r) = some v) :
    exec .deq s = .next
      { s with
        rx := { s.rx with readIndex := some (counterInc s.cfg r) }
        rspOut := s.rspOut ++ [⟨.ok, v.toNat⟩] } := by
  have hin := within_of_idle hb hf
  have hpop : ∀ b, (s.setReadIndex .rx (counterInc s.cfg r)).within b = true := by
    rintro (_ | _)
    · exact hin .tx
    · exact within_pop (hin .rx) hr (by simp [occ_eq (b := .rx) hw hr, hne])
  rw [exec_of_idle (by simp [Instr.port, hf])]
  refine Eq.trans (runMicro_fg_onward hin rfl (deq_q1_next.mpr ⟨w, hw, rfl⟩) rfl) ?_
  refine Eq.trans (runMicro_fg_onward hin rfl (deq_q2_next.mpr ⟨r, hr, (if_neg hne).symm⟩) rfl) ?_
  refine Eq.trans (runMicro_fg_onward hin rfl (deq_q3_next.mpr ⟨r, v, hr, hv, rfl⟩) rfl) ?_
  refine Eq.trans (runMicro_fg_onward hin rfl (deq_q4_next.mpr ⟨r, hr, rfl⟩) rfl) ?_
  refine Eq.trans (runMicro_fg_onward hpop rfl (deq_q5_next.mpr rfl) rfl) ?_
  rw [runMicro_idle rfl]
  congr 1
  ext <;> simp [startAt, hf]

/-! ### ENQ -/

/-- ENQ's first four micro-steps, with room, are a PUSH (41_foreground.md R112). -/
theorem runMicro_enq_push {n : Nat} (hb : ∀ b, s.within b = true) (hf : s.fg = some (.enq (.e1 v)))
    (hw : s.tx.writeIndex = some w) (hr : s.tx.readIndex = some r) (hne : counterSub s.cfg w r ≠ s.cfg.cap .tx) :
    runMicro .fg (n + 4) s = runMicro .fg n
      (((s.memWrite .tx (slotOf s.cfg .tx w) v).setWriteIndex .tx (counterInc s.cfg w)).setFg (some (.enq .e5))) := by
  refine Eq.trans (runMicro_fg_onward hb hf (enq_e1_next.mpr ⟨r, hr, rfl⟩) rfl) ?_
  refine Eq.trans (runMicro_fg_onward hb rfl (enq_e2_next.mpr ⟨w, hw, (if_neg hne).symm⟩) rfl) ?_
  refine Eq.trans (runMicro_fg_onward hb rfl (enq_e3_next.mpr ⟨w, hw, rfl⟩) rfl) ?_
  exact runMicro_fg_onward (by simpa using hb) rfl (enq_e4_next.mpr ⟨w, hw, rfl⟩) rfl

/-- ENQ's last four micro-steps arm the transmitter and answer OK (41_foreground.md R113). -/
theorem runMicro_enq_arm {a : Bool} (hb : ∀ b, s.within b = true) (hf : s.fg = some (.enq .e5)) (ha : s.txArmed = some a) :
    runMicro .fg 4 s = .next ((kickIf a (armIf a s)).returns .ok 0) := by
  refine Eq.trans (runMicro_fg_onward hb hf (enq_e5_next.mpr ⟨a, ha, rfl⟩) rfl) ?_
  refine Eq.trans (runMicro_fg_onward hb rfl (enq_e6_next.mpr rfl) rfl) ?_
  refine Eq.trans (runMicro_fg_onward (by simpa using hb) rfl (enq_e7_next.mpr rfl) rfl) ?_
  refine Eq.trans (runMicro_fg_onward (by simpa using hb) rfl (enq_e8_next.mpr rfl) rfl) ?_
  rw [runMicro_idle rfl]
  congr 1
  ext <;> simp [State.bound]

/-- ENQ's whole effect with room (41_foreground.md R112, R113). -/
theorem exec_enq_room {a : Bool} (hb : s.inBounds = true) (hf : s.fg = none) (hw : s.tx.writeIndex = some w)
    (hr : s.tx.readIndex = some r) (ha : s.txArmed = some a) (hne : counterSub s.cfg w r ≠ s.cfg.cap .tx) :
    exec (.enq v) s = .next
      { s with
        tx := { s.tx with
          storage := s.tx.storage.write (slotOf s.cfg .tx w) v
          writeIndex := some (counterInc s.cfg w) }
        txArmed := some true
        txEn := if a = false ∧ s.hooks.getLsbD 2 = true then true else s.txEn
        hookOut := if a = false ∧ s.hooks.getLsbD 2 = true then s.hookOut ++ [.setTxEn true] else s.hookOut
        rspOut := s.rspOut ++ [⟨.ok, 0⟩] } := by
  have hin := within_of_idle hb hf
  have hpush : ∀ b, ((s.memWrite .tx (slotOf s.cfg .tx w) v).setWriteIndex .tx (counterInc s.cfg w)).within b = true := by
    rintro (_ | _)
    · exact within_push (s := s.memWrite .tx (slotOf s.cfg .tx w) v) (hin .tx) hw
        fun h => hne (Option.some.inj ((occ_eq (b := .tx) hw hr).symm.trans h))
    · exact hin .rx
  rw [exec_of_idle (by simp [Instr.port, hf])]
  refine Eq.trans (runMicro_enq_push (n := 4) hin rfl hw hr hne) ?_
  refine Eq.trans (runMicro_enq_arm hpush rfl ha) ?_
  congr 1
  ext <;> cases a <;> simp [startAt, hf, ha, State.bound, hookBit]

theorem enqFull_setFg (q : Option FgPos) : enqFull v (s.setFg q) = enqFull v s := by
  unfold enqFull
  simp only [State.setFg_cfg]
  split <;> rfl

theorem enqFull_of_blocking (hp : s.cfg.policy = .blocking) : enqFull v s = { s with fg := some (.enq (.e1 v)) } := by
  simp [enqFull, hp, State.setFg]

theorem enqFull_of_nonblocking (hp : s.cfg.policy = .nonblocking) (hf : s.fg = none) :
    enqFull v s = { s with rspOut := s.rspOut ++ [⟨.bufferFull, 0⟩] } := by
  simp only [enqFull, hp]
  ext <;> simp [hf]

theorem heldAtE1_enqFull : (enqFull v s).heldAtE1 = true ∨ (enqFull v s).inFlight .fg = false := by
  unfold enqFull
  split
  · exact .inr rfl
  · exact .inl rfl

/-- ENQ's first two micro-steps on a full buffer lead to the answer or back to E1, as the policy says (41_foreground.md R112, R114). -/
theorem microStep_enq_full (hb : ∀ b, s.within b = true) (hf : s.fg = some (.enq (.e1 v))) (hw : s.tx.writeIndex = some w)
    (hr : s.tx.readIndex = some r) (hfull : counterSub s.cfg w r = s.cfg.cap .tx) :
    ∃ u, u.heldAtE1 = false ∧ u.inFlight .fg = true ∧ microStep .fg s = .next u ∧
      microStep .fg u = .next (enqFull v s) := by
  refine ⟨s.setFg (some (.enq (.e2 v r))), rfl, rfl, ?_, ?_⟩
  · rw [microStep_fg (inBounds_of_within (hb .tx) (hb .rx)) hf]
    exact enq_e1_next.mpr ⟨r, hr, rfl⟩
  · rw [microStep_fg (inBounds_of_within (by simpa using hb .tx) (by simpa using hb .rx)) rfl]
    exact enq_e2_next.mpr ⟨w, hw, (enqFull_setFg _).symm.trans (if_pos hfull).symm⟩

/-- ENQ on a full buffer ends with its second micro-step: answered, or held at E1. -/
theorem exec_enq_full (hb : s.inBounds = true) (hf : s.fg = none) (hw : s.tx.writeIndex = some w)
    (hr : s.tx.readIndex = some r) (hfull : counterSub s.cfg w r = s.cfg.cap .tx) :
    exec (.enq v) s = .next (enqFull v s) := by
  obtain ⟨u, hh, hu, h1, h2⟩ :=
    microStep_enq_full (s := startAt (.enq v) s) (within_of_idle (s := s) hb hf) rfl hw hr hfull
  rw [show enqFull v (startAt (.enq v) s) = enqFull v s from enqFull_setFg _] at h2
  rw [exec_of_idle (by simp [Instr.port, hf])]
  refine Eq.trans (runMicro_succ rfl h1) ?_
  rw [if_neg (by simp [hh])]
  refine Eq.trans (runMicro_succ hu h2) ?_
  obtain h | h := heldAtE1_enqFull (s := s) (v := v)
  · exact if_pos ⟨rfl, h⟩
  · rw [runMicro_idle (p := (Instr.enq v).port) h, ite_self]

/-- A held ENQ is one at its first micro-step: to run it is to issue it (41_foreground.md R114). -/
theorem runMicro_heldAtE1 (hf : s.fg = some (.enq (.e1 v))) :
    runMicro .fg maxMicro s = exec (.enq v) { s with fg := none } := by
  rw [exec_of_idle rfl]
  congr 1
  ext <;> simp [startAt, hf]

/-! ### How near an operation of FG is to its end -/

/-- Only ENQ's E2 leads to E1, on a full buffer under the blocking policy (41_foreground.md R114). -/
theorem fgMicro_to_e1 {q : FgPos} (h : fgMicro q s = .next t) (ht : t.fg = some (.enq (.e1 v))) :
    s.cfg.policy = .blocking ∧ ∃ b r w, q = .enq (.e2 b r) ∧ s.tx.writeIndex = some w ∧
      counterSub s.cfg w r = s.cfg.cap .tx ∧ t = { s with fg := some (.enq (.e1 b)) } := by
  obtain ⟨u, x, -, hx, hgoes⟩ := fgMicro_effect h
  obtain rfl : x = some (.enq (.e1 v)) := (congrArg State.fg hx).symm.trans ht
  obtain ⟨hop, -⟩ := hgoes
  cases q
  case enq p =>
    cases p
    case e2 b r =>
      obtain ⟨w, hw, rfl⟩ := enq_e2_next.mp h
      split at ht
      · next hfull =>
        cases hp : s.cfg.policy
        case blocking => exact ⟨rfl, b, r, w, rfl, hw, hfull, (if_pos hfull).trans (enqFull_of_blocking hp)⟩
        case nonblocking => simp [enqFull, hp] at ht
      · cases ht
    case e1 => obtain ⟨r, -, rfl⟩ := enq_e1_next.mp h; cases ht
    case e3 => obtain ⟨w, -, rfl⟩ := enq_e3_next.mp h; cases ht
    case e4 => obtain ⟨w, -, rfl⟩ := enq_e4_next.mp h; cases ht
    case e5 => obtain ⟨a, -, rfl⟩ := enq_e5_next.mp h; cases ht
    case e6 => obtain rfl := enq_e6_next.mp h; cases ht
    case e7 => obtain rfl := enq_e7_next.mp h; cases ht
    case e8 => obtain rfl := enq_e8_next.mp h; cases ht
  all_goals cases hop

end Sys2Proof.Machine

open Sys2Proof Sys2Proof.Machine

/-- Settles O16: the seven micro-steps of INIT one after the other. -/
theorem initEffect : Obligations.InitEffect := by
  unfold Obligations.InitEffect
  exact fun s => exec_init

/-- Settles O17: the two micro-steps of BIND one after the other. -/
theorem bindEffect : Obligations.BindEffect := by
  unfold Obligations.BindEffect
  exact fun s => exec_bind

/-- Settles O18: a PUSH, then the arm phase. -/
theorem enqQueues : Obligations.EnqQueues := by
  unfold Obligations.EnqQueues
  exact fun s b w r a => exec_enq_room

/-- Settles O19: E2 finds the buffer full, and ENQ ends as the policy says. -/
theorem enqFull : Obligations.EnqFull := by
  unfold Obligations.EnqFull
  intro s b w r hb hf hw hr hfull
  rw [exec_enq_full hb hf hw hr hfull]
  exact ⟨fun hp => congrArg _ (enqFull_of_nonblocking hp hf), fun hp => congrArg _ (enqFull_of_blocking hp)⟩

/-- Settles O20: E2 leads back to E1 while the buffer is full; and a held ENQ is one about to begin. -/
theorem enqHold : Obligations.EnqHold := by
  unfold Obligations.EnqHold
  intro s b w r hb hf hp hw hr
  refine ⟨fun hfull => ?_, fun _ => runMicro_heldAtE1 hf⟩
  obtain ⟨htx, hrx⟩ := (inBounds_iff (by simp [State.inInit, hf])).mp hb
  obtain ⟨u, -, -, h1, h2⟩ := microStep_enq_full (by rintro (_ | _) <;> assumption) hf hw hr hfull
  rw [h1, andThen_next, h2, enqFull_of_blocking hp, ← hf]

/-- Settles O21: a POP, or the test that finds nothing pending. -/
theorem deqEffect : Obligations.DeqEffect := by
  unfold Obligations.DeqEffect
  exact fun s w r hb hf hw hr => ⟨fun v => exec_deq_pending hb hf hw hr, exec_deq_empty hb hf hw hr⟩

/-- Settles O22: the two micro-steps of RXCNT one after the other. -/
theorem rxcntReturns : Obligations.RxcntReturns := by
  unfold Obligations.RxcntReturns
  exact fun s w r => exec_rxcnt

/-- Settles O54: each labelled micro-step is nearer to the end than its place, but for E2's way back to E1. -/
theorem foregroundBounded : Obligations.ForegroundBounded := by
  unfold Obligations.ForegroundBounded
  refine ⟨fun s => ⟨rfl, fun _ => rfl, fun _ => rfl, rfl, rfl⟩, fun s t q hf h => ?_, fun s t h => (microStep_irq_keeps h).fg⟩
  obtain ⟨-, ⟨-, ⟨q', hq, h⟩ | ⟨hq, -⟩⟩ | ⟨h, -⟩⟩ := microStep_eq_next.mp h
  · obtain rfl : q' = q := Option.some.inj (hq.symm.trans hf)
    obtain ⟨u, x, -, ht, hx⟩ := fgMicro_effect h
    have hft : t.fg = x := congrArg State.fg ht
    cases x with
    | none => exact .inl hft
    | some x =>
      obtain ⟨-, hlt | ⟨b, rfl⟩⟩ := hx
      · exact .inr (.inl ⟨x, hft, hlt⟩)
      · exact .inr (.inr (fgMicro_to_e1 h hft))
  · cases hq.symm.trans hf
  · cases h

end

section
/-! SUPPORT. Runs of one foreground operation after another (40_ringbuffer.md R97): ENQs fill the transmit buffer and DEQs drain the receive buffer. -/

namespace Sys2Proof.Machine

variable {s t : State} {b : Buf} {v : Byte} {w r : Nat}

/-- An operation keeps the invariant. -/
theorem inv_exec {i : Instr} (hi : s.Inv) (h : exec i s = .next t) : t.Inv :=
  exec_keeps (fun _ _ hf hu e => inv_startAt hf hu e) (fun _ _ hu e => inv_microStep hu e) hi h

/-- With no foreground operation in flight and `tx_armed` written, the invariant says that both buffers and the flag are as an INIT and what came after
it have left them. -/
theorem buffersOk_of_idle (hi : s.Inv) (hf : s.fg = none) (ha : s.txArmed ≠ none) :
    BuffersOk s .idle (irqPop s.irq) (irqPush s.irq) .idle := by
  have hn : s.inInit = false := by simp [State.inInit, hf]
  have h := (inv_and_settled_iff hn).mp ⟨hi, Inv_settled hi hn ha⟩
  rwa [hf] at h

/-- A byte stored in the write slot of a buffer with room, the counter advanced: the byte is queued last (40_ringbuffer.md R94). -/
theorem queue_enqueue (hw : (s.ring b).writeIndex = some w) (hr : (s.ring b).readIndex = some r)
    (hlt : counterSub s.cfg w r < s.cfg.cap b)
    (ht : t.ring b = ((s.memWrite b (slotOf s.cfg b w) v).setWriteIndex b (counterInc s.cfg w)).ring b) (hc : t.cfg = s.cfg) :
    t.queue b = s.queue b ++ [some v] := by
  have hcfg := memWrite_cfg s b (slotOf s.cfg b w) v
  have hring := memWrite_ring s b (slotOf s.cfg b w) v
  rw [← queue_store hw hr hlt hring hcfg]
  refine queue_push (w := w) (r := r) (by rw [hring]; exact hw) (by rw [hring]; exact hr) (by rwa [hcfg]) ?_ ?_ (hc.trans hcfg.symm)
  · simp [memWrite_memRead]
  · rw [ht, setWriteIndex_ring, hcfg]

/-- The oldest byte of a buffer that holds one stands in its read slot. -/
theorem queue_eq_cons {q : List (Option Byte)} (hw : (s.ring b).writeIndex = some w) (hr : (s.ring b).readIndex = some r)
    (h : s.queue b = some v :: q) : 0 < counterSub s.cfg w r ∧ s.memRead b (slotOf s.cfg b r) = some v := by
  have hlen : counterSub s.cfg w r = q.length + 1 := by rw [← queue_length hw hr, h, List.length_cons]
  rw [queue_eq hw hr, hlen, List.range_succ_eq_map, List.map_cons, List.cons.injEq] at h
  exact ⟨by omega, h.1⟩

/-- With the read counter advanced the oldest byte is queued no more (40_ringbuffer.md R95). -/
theorem queue_dequeue {q : List (Option Byte)} (hw : (s.ring b).writeIndex = some w) (hr : (s.ring b).readIndex = some r)
    (h : s.queue b = some v :: q) (ht : t.ring b = { s.ring b with readIndex := some (counterInc s.cfg r) })
    (hc : t.cfg = s.cfg) : t.queue b = q := by
  obtain ⟨hpos, hv⟩ := queue_eq_cons hw hr h
  exact (List.cons.inj ((queue_pop hw hr hpos hv ht hc).symm.trans h)).2

/-- One ENQ with room queues its byte and answers OK, and the next one may come. -/
theorem exec_enq_queues (v : Byte) (hi : s.Inv) (hf : s.fg = none) (ha : s.txArmed ≠ none)
    (hlt : (s.queue .tx).length < s.cfg.cap .tx) :
    ∃ t, exec (.enq v) s = .next t ∧ t.cfg = s.cfg ∧ t.fg = none ∧ t.txArmed ≠ none ∧ t.queue .tx = s.queue .tx ++ [some v] ∧
      t.rspOut = s.rspOut ++ [⟨.ok, 0⟩] ∧ t.queue .rx = s.queue .rx := by
  obtain ⟨a, ha'⟩ := Option.ne_none_iff_exists'.mp ha
  obtain ⟨-, w, r, hw, hr, -⟩ := (buffersOk_of_idle hi hf ha).tx
  rw [queue_length hw hr] at hlt
  refine ⟨_, exec_enq_room (Inv_inBounds hi) hf hw hr ha' hlt.ne, rfl, hf, nofun, ?_, rfl, queue_congr rfl rfl⟩
  exact queue_enqueue hw hr hlt rfl rfl

/-- One DEQ takes the oldest byte and answers with it, and the next one may come. -/
theorem exec_deq_takes {q : List (Option Byte)} (hi : s.Inv) (hf : s.fg = none) (ha : s.txArmed ≠ none)
    (hq : s.queue .rx = some v :: q) :
    ∃ t, exec .deq s = .next t ∧ t.fg = none ∧ t.txArmed ≠ none ∧ t.queue .rx = q ∧
      t.rspOut = s.rspOut ++ [⟨.ok, v.toNat⟩] ∧ t.queue .tx = s.queue .tx := by
  obtain ⟨-, w, r, hw, hr, -⟩ := (buffersOk_of_idle hi hf ha).rx
  obtain ⟨hpos, hv⟩ := queue_eq_cons hw hr hq
  refine ⟨_, exec_deq_pending (Inv_inBounds hi) hf hw hr hpos.ne' hv, hf, ha, ?_, rfl, queue_congr rfl rfl⟩
  exact queue_dequeue hw hr hq rfl rfl

/-- One DEQ on an empty buffer answers BUFFER_EMPTY. -/
theorem exec_deq_nothing (hi : s.Inv) (hf : s.fg = none) (ha : s.txArmed ≠ none) (hq : s.queue .rx = []) :
    exec .deq s = .next { s with rspOut := s.rspOut ++ [⟨.bufferEmpty, 0⟩] } := by
  obtain ⟨-, w, r, hw, hr, -⟩ := (buffersOk_of_idle hi hf ha).rx
  exact exec_deq_empty (Inv_inBounds hi) hf hw hr (by rw [← queue_length hw hr, hq, List.length_nil])

end Sys2Proof.Machine

open Sys2Proof Sys2Proof.Machine

/-- Settles O46, by induction on the bytes: one ENQ queues one byte and leaves room for the rest. -/
theorem enqFills : Obligations.EnqFills := by
  unfold Obligations.EnqFills
  intro s bs hi hf ha hroom
  induction bs generalizing s with
  | nil => exact ⟨s, rfl, by simp, by simp, rfl⟩
  | cons b bs ih =>
    rw [List.length_cons] at hroom
    obtain ⟨t, ht, hcfg, hft, hat, htx, hrsp, hrx⟩ := exec_enq_queues b hi hf ha (by omega)
    obtain ⟨u, hu, hutx, hursp, hurx⟩ := ih t (inv_exec hi ht) hft hat
      (by rw [htx, hcfg, List.length_append, List.length_singleton]; omega)
    refine ⟨u, ?_, by simp [hutx, htx], by simp [hursp, hrsp], hurx.trans hrx⟩
    rw [List.map_cons, execAll, ht, andThen_next, hu]

/-- Settles O49, by induction on the queued bytes: one DEQ takes the oldest, and the last finds none. -/
theorem deqDrains : Obligations.DeqDrains := by
  unfold Obligations.DeqDrains
  intro s bs hi hf ha hq
  induction bs generalizing s with
  | nil =>
    refine ⟨{ s with rspOut := s.rspOut ++ [⟨.bufferEmpty, 0⟩] }, ?_, by simp, hq, queue_congr rfl rfl⟩
    rw [List.length_nil, List.replicate_one, execAll, exec_deq_nothing hi hf ha hq, andThen_next, execAll]
  | cons v bs ih =>
    obtain ⟨t, ht, hft, hat, hrx, hrsp, htx⟩ := exec_deq_takes hi hf ha hq
    obtain ⟨u, hu, hursp, hurx, hutx⟩ := ih t (inv_exec hi ht) hft hat hrx
    refine ⟨u, ?_, by simp [hursp, hrsp], hurx, hutx.trans htx⟩
    rw [List.length_cons, List.replicate_succ, execAll, ht, andThen_next, hu]

end

section
/-! SUPPORT. The two callbacks run whole (42_interrupt.md R130, R131, R135, R136): each is the chain of its labelled micro-steps outside an INIT, whatever
foreground operation it has preempted; and how near a callback is to its end (R137). -/

namespace Sys2Proof.Machine

variable {s t : State} {b : Buf} {v : Byte} {w r : Nat} {q : IrqPos}

/-! ### Chains of a callback's micro-steps -/

/-- Outside an INIT a state with a meaning is one with both buffers within bounds. -/
theorem within_of_not_inInit (hb : s.inBounds = true) (hn : s.inInit = false) (b : Buf) : s.within b = true := by
  obtain ⟨htx, hrx⟩ := (inBounds_iff hn).mp hb
  cases b
  · exact htx
  · exact hrx

/-- A callback begun outside an INIT meets no race. -/
theorem enterCallback_initRaced (hn : s.inInit = false) : (s.enterCallback q).initRaced = false := by
  rw [State.initRaced, show (s.enterCallback q).inInit = false from hn]
  rfl

/-- A callback goes on after a micro-step that answers, the buffers within bounds. -/
theorem runMicro_irq_onward {n : Nat} (hb : ∀ b, s.within b = true) (h : irqMicro q (s.enterCallback q) = .next t) :
    runMicro .irq (n + 1) (s.enterCallback q) = runMicro .irq n t := by
  have hin : (s.enterCallback q).inBounds = true := inBounds_of_within (by simp [hb]) (by simp [hb])
  rw [runMicro_succ rfl ((microStep_irq hin rfl).trans h)]
  exact if_neg (by simp)

/-! ### TXRDY -/

/-- TXRDY's first three micro-steps find the hook bound and count what is queued. -/
theorem runMicro_txrdy_count {n : Nat} (hin : ∀ b, s.within b = true) (hn : s.inInit = false) (hs : s.hooks.getLsbD 0 = true)
    (hw : s.tx.writeIndex = some w) (hr : s.tx.readIndex = some r) :
    runMicro .irq (n + 3) (s.enterCallback (.txrdy .t1)) =
      runMicro .irq n (s.enterCallback (.txrdy (if counterSub s.cfg w r = 0 then .t9 else .t4))) :=
  calc runMicro .irq (n + 3) (s.enterCallback (.txrdy .t1))
    _ = runMicro .irq (n + 2) (s.enterCallback (.txrdy .t2)) :=
      runMicro_irq_onward hin (txrdy_t1_next.mpr ⟨enterCallback_initRaced hn, hs, rfl⟩)
    _ = runMicro .irq (n + 1) (s.enterCallback (.txrdy (.t3 w))) :=
      runMicro_irq_onward hin (txrdy_t2_next.mpr ⟨enterCallback_initRaced hn, w, hw, rfl⟩)
    _ = runMicro .irq n (s.enterCallback (.txrdy (if counterSub s.cfg w r = 0 then .t9 else .t4))) :=
      runMicro_irq_onward hin (txrdy_t3_next.mpr ⟨enterCallback_initRaced hn, r, hr, rfl⟩)

/-- T4 to T6 load the byte, send it and give its slot back. -/
theorem runMicro_txrdy_send {n : Nat} (hin : ∀ b, s.within b = true) (hn : s.inInit = false)
    (hr : s.tx.readIndex = some r) (hv : s.memRead .tx (slotOf s.cfg .tx r) = some v) :
    runMicro .irq (n + 3) (s.enterCallback (.txrdy .t4)) =
      runMicro .irq n (((s.emit (.sendByte v)).setReadIndex .tx (counterInc s.cfg r)).enterCallback (.txrdy .t7)) :=
  calc runMicro .irq (n + 3) (s.enterCallback (.txrdy .t4))
    _ = runMicro .irq (n + 2) (s.enterCallback (.txrdy (.t5 v))) :=
      runMicro_irq_onward hin (txrdy_t4_next.mpr ⟨enterCallback_initRaced hn, r, v, hr, hv, rfl⟩)
    _ = runMicro .irq (n + 1) ((s.emit (.sendByte v)).enterCallback (.txrdy (.t6 v))) :=
      runMicro_irq_onward hin (txrdy_t5_next.mpr ⟨enterCallback_initRaced hn, rfl⟩)
    _ = runMicro .irq n (((s.emit (.sendByte v)).setReadIndex .tx (counterInc s.cfg r)).enterCallback (.txrdy .t7)) :=
      runMicro_irq_onward (by simpa using hin) (txrdy_t6_next.mpr ⟨enterCallback_initRaced hn, r, hr, rfl⟩)

/-- T7 and T8 clear `tx_armed` just when nothing is queued. -/
theorem runMicro_txrdy_drain {n : Nat} (hin : ∀ b, s.within b = true) (hn : s.inInit = false)
    (hw : s.tx.writeIndex = some w) (hr : s.tx.readIndex = some r) :
    runMicro .irq (n + 2) (s.enterCallback (.txrdy .t7)) =
      .next (disarmIf (counterSub s.cfg w r) (s.enterCallback (.txrdy (.t8 w)))).endCallback :=
  calc runMicro .irq (n + 2) (s.enterCallback (.txrdy .t7))
    _ = runMicro .irq (n + 1) (s.enterCallback (.txrdy (.t8 w))) :=
      runMicro_irq_onward hin (txrdy_t7_next.mpr ⟨enterCallback_initRaced hn, w, hw, rfl⟩)
    _ = runMicro .irq n (disarmIf (counterSub s.cfg w r) (s.enterCallback (.txrdy (.t8 w)))).endCallback :=
      runMicro_irq_onward hin (txrdy_t8_next.mpr ⟨enterCallback_initRaced hn, r, hr, rfl⟩)
    _ = _ := runMicro_idle rfl

/-- TXRDY's whole effect on a non-empty buffer (42_interrupt.md R130). -/
theorem exec_txrdy_sends (hb : s.inBounds = true) (hi : s.irq = none) (hn : s.inInit = false) (hs : s.hooks.getLsbD 0 = true)
    (hw : s.tx.writeIndex = some w) (hr : s.tx.readIndex = some r) (hne : counterSub s.cfg w r ≠ 0)
    (hv : s.memRead .tx (slotOf s.cfg .tx r) = some v) :
    exec .txrdy s = .next
      { s with
        tx := { s.tx with readIndex := some (counterInc s.cfg r) }
        hookOut := s.hookOut ++ [.sendByte v]
        txArmed := if counterSub s.cfg w (counterInc s.cfg r) = 0 then some false else s.txArmed } := by
  have hin := within_of_not_inInit hb hn
  have hpop : ∀ b, (s.setReadIndex .tx (counterInc s.cfg r)).within b = true := by
    rintro (_ | _)
    · exact within_pop (hin .tx) hr (by simp [occ_eq (b := .tx) hw hr, hne])
    · exact hin .rx
  rw [exec_of_idle (by simp [Instr.port, hi])]
  refine Eq.trans (runMicro_txrdy_count hin hn hs hw hr) ?_
  rw [if_neg hne]
  refine Eq.trans (runMicro_txrdy_send hin hn hr hv) ?_
  refine Eq.trans (runMicro_txrdy_drain (n := 0) hpop hn hw rfl) ?_
  congr 1
  ext <;> simp [hi]

/-- TXRDY's whole effect on an empty buffer (42_interrupt.md R130, R135; 60_exceptions.md R151). -/
theorem exec_txrdy_disables (hb : s.inBounds = true) (hi : s.irq = none) (hn : s.inInit = false)
    (hs : s.hooks.getLsbD 0 = true) (hw : s.tx.writeIndex = some w) (hr : s.tx.readIndex = some r)
    (h0 : counterSub s.cfg w r = 0) :
    exec .txrdy s = .next
      { s with
        txEn := if s.hooks.getLsbD 2 then false else s.txEn
        hookOut := if s.hooks.getLsbD 2 then s.hookOut ++ [.setTxEn false] else s.hookOut } := by
  have hin := within_of_not_inInit hb hn
  rw [exec_of_idle (by simp [Instr.port, hi])]
  refine Eq.trans (runMicro_txrdy_count hin hn hs hw hr) ?_
  rw [if_pos h0]
  refine Eq.trans (runMicro_irq_onward hin (txrdy_t9_next.mpr ⟨enterCallback_initRaced hn, rfl⟩)) ?_
  rw [runMicro_idle rfl]
  congr 1
  ext <;> simp [hi, State.bound, hookBit]

/-! ### RXBYTE -/

/-- RXBYTE's whole effect with room (42_interrupt.md R131). -/
theorem exec_rxbyte_stores (hb : s.inBounds = true) (hi : s.irq = none) (hn : s.inInit = false)
    (hw : s.rx.writeIndex = some w) (hr : s.rx.readIndex = some r) (hne : counterSub s.cfg w r ≠ s.cfg.cap .rx) :
    exec (.rxbyte v) s = .next
      { s with
        rx := { s.rx with
          storage := s.rx.storage.write (slotOf s.cfg .rx w) v
          writeIndex := some (counterInc s.cfg w) } } := by
  have hin := within_of_not_inInit hb hn
  rw [exec_of_idle (by simp [Instr.port, hi])]
  calc runMicro .irq 8 (s.enterCallback (.rxbyte (.b1 v)))
    _ = runMicro .irq 7 (s.enterCallback (.rxbyte (.b2 v r))) :=
      runMicro_irq_onward hin (rxbyte_b1_next.mpr ⟨enterCallback_initRaced hn, r, hr, rfl⟩)
    _ = runMicro .irq 6 (s.enterCallback (.rxbyte (.b3 v))) :=
      runMicro_irq_onward hin (rxbyte_b2_next.mpr ⟨enterCallback_initRaced hn, w, hw, (if_neg hne).symm⟩)
    _ = runMicro .irq 5 ((s.memWrite .rx (slotOf s.cfg .rx w) v).enterCallback (.rxbyte (.b4 v))) :=
      runMicro_irq_onward hin (rxbyte_b3_next.mpr ⟨enterCallback_initRaced hn, w, hw, rfl⟩)
    _ = runMicro .irq 4 ((s.memWrite .rx (slotOf s.cfg .rx w) v).setWriteIndex .rx (counterInc s.cfg w)).endCallback :=
      runMicro_irq_onward (by simpa using hin) (rxbyte_b4_next.mpr ⟨enterCallback_initRaced hn, w, hw, rfl⟩)
    _ = _ := runMicro_idle rfl
  congr 1
  ext <;> simp [hi]

/-- RXBYTE on a full buffer changes nothing (42_interrupt.md R136). -/
theorem exec_rxbyte_drops (hb : s.inBounds = true) (hi : s.irq = none) (hn : s.inInit = false)
    (hw : s.rx.writeIndex = some w) (hr : s.rx.readIndex = some r) (hfull : counterSub s.cfg w r = s.cfg.cap .rx) :
    exec (.rxbyte v) s = .next s := by
  have hin := within_of_not_inInit hb hn
  rw [exec_of_idle (by simp [Instr.port, hi])]
  calc runMicro .irq 8 (s.enterCallback (.rxbyte (.b1 v)))
    _ = runMicro .irq 7 (s.enterCallback (.rxbyte (.b2 v r))) :=
      runMicro_irq_onward hin (rxbyte_b1_next.mpr ⟨enterCallback_initRaced hn, r, hr, rfl⟩)
    _ = runMicro .irq 6 (s.enterCallback (.rxbyte (.b2 v r))).endCallback :=
      runMicro_irq_onward hin (rxbyte_b2_next.mpr ⟨enterCallback_initRaced hn, w, hw, (if_pos hfull).symm⟩)
    _ = .next (s.enterCallback (.rxbyte (.b2 v r))).endCallback := runMicro_idle rfl
  congr 1
  ext <;> simp [hi]

/-! ### How near a callback is to its end -/

/-- A callback's micro-step ends it or leaves it in flight, nearer to its end. -/
theorem microStep_irq_nearer {c : IrqRun} (hi : s.irq = some c) (h : microStep .irq s = .next t) :
    t.irq = none ∨ ∃ c', t.irq = some c' ∧ c'.pos.stepsLeft < c.pos.stepsLeft := by
  refine (microStep_irq_op hi h).2.imp_right fun ⟨ho, hlt⟩ => ?_
  obtain ⟨c', hc, -⟩ := Option.map_eq_some_iff.mp ho
  exact ⟨c', hc, by simpa [State.stepsLeft, hc] using hlt⟩

/-- No labelled micro-step of a callback is refused: each answers or faults. -/
theorem irqMicro_ne_refused (e : Refusal) : irqMicro q s ≠ .refused e := by
  unfold irqMicro
  split
  · exact nofun
  · rcases q with q | q
    case txrdy =>
      cases q
      case t1 => cases h : s.bound .sendByte <;> simp [txrdyMicro, h]
      case t4 => exact orUninit_ne_refused fun _ => orUninit_ne_refused fun _ => nofun
      case t5 | t9 => exact nofun
      all_goals exact orUninit_ne_refused fun _ => nofun
    case rxbyte => cases q <;> exact orUninit_ne_refused fun _ => nofun

/-- In a state with a meaning no micro-step of IRQ is refused (42_interrupt.md R137). -/
theorem microStep_irq_ne_refused (hb : s.inBounds = true) (e : Refusal) : microStep .irq s ≠ .refused e := by
  cases hi : s.irq with
  | none => simp [microStep_of hb, hi]
  | some c => rw [microStep_irq hb hi]; exact irqMicro_ne_refused e

end Sys2Proof.Machine

open Sys2Proof Sys2Proof.Machine

/-- Settles O23: the eight micro-steps of TXRDY that find a byte. -/
theorem txrdySends : Obligations.TxrdySends := by
  unfold Obligations.TxrdySends
  exact fun s w r v => exec_txrdy_sends

/-- Settles O24: the four micro-steps of TXRDY that find none. -/
theorem txrdyDisables : Obligations.TxrdyDisables := by
  unfold Obligations.TxrdyDisables
  exact fun s w r => exec_txrdy_disables

/-- Settles O25: a PUSH, or the test that finds no room. -/
theorem rxbyteEffect : Obligations.RxbyteEffect := by
  unfold Obligations.RxbyteEffect
  exact fun s b w r hb hi hn hw hr => ⟨exec_rxbyte_stores hb hi hn hw hr, exec_rxbyte_drops hb hi hn hw hr⟩

/-- Settles O55: each labelled micro-step is nearer to the end than its place, and answers or faults; FG's leave the callback's place. -/
theorem callbacksBounded : Obligations.CallbacksBounded := by
  unfold Obligations.CallbacksBounded
  refine ⟨fun s => ⟨rfl, fun _ => rfl⟩, fun s t c hi h => ?_, fun s e hb => microStep_irq_ne_refused hb e,
    fun s t h => (microStep_fg_keeps h).irqPos⟩
  exact ⟨(microStep_irq_keeps h).rspOut, microStep_irq_nearer hi h⟩

end

section
/-! SUPPORT. Runs of one callback after another (42_interrupt.md R135, R136): TXRDYs drain the transmit buffer and then disable the hardware, and RXBYTEs
fill the receive buffer. -/

namespace Sys2Proof.Machine

variable {s t : State} {b : Buf} {v : Byte} {w r : Nat} {x : PushStage} {y : PopStage}

/-- With no callback in flight outside an INIT and `tx_armed` written, the invariant says that both buffers and the flag are as an INIT and what came
after it have left them. -/
theorem buffersOk_of_irq_idle (hi : s.Inv) (hn : s.inInit = false) (hq : s.irq = none) (ha : s.txArmed ≠ none) :
    BuffersOk s (fgPush s.fg) .idle .idle (fgPop s.fg) := by
  have h := (inv_and_settled_iff hn).mp ⟨hi, Inv_settled hi hn ha⟩
  rwa [hq] at h

/-- A settled buffer holds no more than its capacity. -/
theorem RingOk.queue_length_le (h : RingOk s b x y) : (s.queue b).length ≤ s.cfg.cap b := by
  obtain ⟨-, w, r, hw, hr, ⟨-, -, hle, -⟩, -⟩ := h
  rwa [queue_length hw hr]

/-- One TXRDY sends the oldest byte, and disarms just when none is left (42_interrupt.md R130). -/
theorem exec_txrdy_takes {q : List (Option Byte)} (hi : s.Inv) (hn : s.inInit = false) (hirq : s.irq = none)
    (ha : s.txArmed ≠ none) (hs : s.hooks.getLsbD 0 = true) (hq : s.queue .tx = some v :: q) :
    ∃ t, exec .txrdy s = .next t ∧ t.queue .tx = q ∧ t.hookOut = s.hookOut ++ [.sendByte v] ∧
      t.txArmed = (if q = [] then some false else s.txArmed) ∧ t.txEn = s.txEn ∧ t.queue .rx = s.queue .rx := by
  obtain ⟨-, w, r, hw, hr, -⟩ := (buffersOk_of_irq_idle hi hn hirq ha).tx
  obtain ⟨hpos, hv⟩ := queue_eq_cons hw hr hq
  have htx := queue_dequeue (t := s.setReadIndex .tx (counterInc s.cfg r)) hw hr hq rfl rfl
  have hempty : counterSub s.cfg w (counterInc s.cfg r) = 0 ↔ q = [] := by
    rw [← List.length_eq_zero_iff, ← htx, queue_length (s := s.setReadIndex .tx _) (b := .tx) hw rfl]
    rfl
  exact ⟨_, exec_txrdy_sends (Inv_inBounds hi) hirq hn hs hw hr hpos.ne' hv, htx, rfl, if_congr hempty rfl rfl, rfl,
    queue_congr rfl rfl⟩

/-- One TXRDY on an empty buffer disables the hardware if it can (42_interrupt.md R135). -/
theorem exec_txrdy_confirms (hi : s.Inv) (hn : s.inInit = false) (hirq : s.irq = none) (ha : s.txArmed ≠ none)
    (hs : s.hooks.getLsbD 0 = true) (he : s.hooks.getLsbD 2 = true) (hq : s.queue .tx = []) :
    exec .txrdy s = .next { s with txEn := false, hookOut := s.hookOut ++ [.setTxEn false] } := by
  obtain ⟨-, w, r, hw, hr, -⟩ := (buffersOk_of_irq_idle hi hn hirq ha).tx
  rw [exec_txrdy_disables (Inv_inBounds hi) hirq hn hs hw hr (by rw [← queue_length hw hr, hq, List.length_nil])]
  simp [he]

/-- One RXBYTE queues its byte behind what is queued if there is room, drops it if there is none, and signals nothing (42_interrupt.md R136). -/
theorem exec_rxbyte_keeps (v : Byte) (hi : s.Inv) (hn : s.inInit = false) (hirq : s.irq = none) (ha : s.txArmed ≠ none) :
    ∃ t, exec (.rxbyte v) s = .next t ∧ t.queue .rx = (s.queue .rx ++ [some v]).take (s.cfg.cap .rx) ∧
      t.queue .tx = s.queue .tx := by
  have hrx := (buffersOk_of_irq_idle hi hn hirq ha).rx
  have hle := hrx.queue_length_le
  obtain ⟨-, w, r, hw, hr, -⟩ := hrx
  have hlen := queue_length hw hr
  obtain hfull | hlt := hle.eq_or_lt
  · refine ⟨s, exec_rxbyte_drops (Inv_inBounds hi) hirq hn hw hr (hlen.symm.trans hfull), ?_, rfl⟩
    rw [← hfull, List.take_left]
  · refine ⟨_, exec_rxbyte_stores (Inv_inBounds hi) hirq hn hw hr (hlen.symm.trans_ne hlt.ne), ?_, queue_congr rfl rfl⟩
    rw [List.take_of_length_le (by simpa using hlt)]
    exact queue_enqueue hw hr (hlen.symm.trans_lt hlt) rfl rfl

/-- To keep what fits of some bytes, and then of more, is to keep what fits of all. -/
theorem take_take_append {α : Type} (l m : List α) (n : Nat) : (l.take n ++ m).take n = (l ++ m).take n := by
  rw [List.take_append, List.take_append, List.take_take, Nat.min_self, List.length_take]
  congr 2
  omega

end Sys2Proof.Machine

open Sys2Proof Sys2Proof.Machine

/-- Settles O47, by induction on the queued bytes: one TXRDY sends the oldest, the one that sends the last byte disarms, and the next one disables. -/
theorem burstThenDisable : Obligations.BurstThenDisable := by
  unfold Obligations.BurstThenDisable
  intro s bs hi hf hirq ha hs he hq
  have hn : s.inInit = false := by simp [State.inInit, hf]
  induction bs generalizing s with
  | nil =>
    refine ⟨{ s with txEn := false, hookOut := s.hookOut ++ [.setTxEn false] }, ?_, by simp, hq, rfl, rfl, queue_congr rfl rfl⟩
    rw [List.length_nil, List.replicate_one, execAll, exec_txrdy_confirms hi hn hirq ha hs he hq, andThen_next, execAll]
  | cons v bs ih =>
    obtain ⟨t, ht, htx, hout, harm, -, hrx⟩ := exec_txrdy_takes hi hn hirq ha hs hq
    have hft : t.fg = none := (exec_fg ht nofun).trans hf
    have hhk : t.hooks = s.hooks := (exec_frame ht).1.hooks nofun
    have hat : t.txArmed ≠ none := by
      rw [harm]
      split
      · exact nofun
      · exact ha
    obtain ⟨u, hu, huout, hutx, huen, huarm, hurx⟩ := ih t (inv_exec hi ht) hft ((exec_irq ht nofun).trans hirq) hat
      (hhk ▸ hs) (hhk ▸ he) htx (by simp [State.inInit, hft])
    refine ⟨u, ?_, by simp [huout, hout], hutx, huen, ?_, hurx.trans hrx⟩
    · rw [List.length_cons, List.replicate_succ, execAll, ht, andThen_next, hu]
    · rw [huarm, harm]
      cases bs <;> rfl

/-- Settles O48, by induction on the bytes: one RXBYTE keeps its byte if it fits, and an RXBYTE is no writer of the rest. -/
theorem receiveKeepsWhatFits : Obligations.ReceiveKeepsWhatFits := by
  unfold Obligations.ReceiveKeepsWhatFits
  intro s bs hi hn hirq ha
  induction bs generalizing s with
  | nil =>
    refine ⟨s, rfl, ?_, rfl, rfl, rfl⟩
    rw [List.map_nil, List.append_nil,
      List.take_of_length_le (buffersOk_of_irq_idle hi hn hirq ha).rx.queue_length_le]
  | cons b bs ih =>
    obtain ⟨t, ht, hrx, htx⟩ := exec_rxbyte_keeps b hi hn hirq ha
    obtain ⟨hfr, -⟩ := exec_frame ht
    have hta : t.txArmed = s.txArmed := hfr.txArmed nofun nofun nofun
    obtain ⟨u, hu, hurx, huout, hursp, hutx⟩ := ih t (inv_exec hi ht) ((inInit_congr (exec_fg ht nofun)).trans hn)
      ((exec_irq ht nofun).trans hirq) (hta ▸ ha)
    refine ⟨u, ?_, ?_, huout.trans (hfr.hookOut nofun nofun nofun), hursp.trans (hfr.rspOut rfl), hutx.trans htx⟩
    · rw [List.map_cons, execAll, ht, andThen_next, hu]
    · rw [hurx, hrx, hfr.cfg, take_take_append, List.append_assoc, List.map_cons, List.singleton_append]

end

section
/-! SUPPORT. The transmit-enable machine (42_interrupt.md R132 to R134): what each whole operation does to the triple `(tx_armed, tx_en, occ(tx))`, and that
the named states are those in which `tx_armed` is true exactly when a byte is queued and nothing is queued while the hardware is disabled. -/

namespace Sys2Proof.Machine

variable {s t : State} {b : Buf} {v : Byte} {n : Nat} {a : Bool} {x : Triple} {y : PushStage} {z : PopStage} {o : Op}

/-! ### The triple -/

theorem triple_eq_some_iff :
    s.triple = some x ↔ s.txArmed = some x.armed ∧ s.txEn = x.enabled ∧ s.occ .tx = some x.queued := by
  obtain ⟨a, e, n⟩ := x
  unfold State.triple
  cases s.txArmed <;> cases s.occ .tx <;> simp

/-- The triple is about the flag, the enable, the parameters and the counters of `tx`. -/
theorem triple_congr (ha : t.txArmed = s.txArmed) (he : t.txEn = s.txEn) (hc : t.cfg = s.cfg)
    (hw : t.tx.writeIndex = s.tx.writeIndex) (hr : t.tx.readIndex = s.tx.readIndex) : t.triple = s.triple := by
  simp [State.triple, State.occ, ha, he, hc, hw, hr]

/-- A buffer holds as many bytes as its occupancy says. -/
theorem queue_length_of_occ (h : s.occ b = some n) : (s.queue b).length = n := by
  cases hw : (s.ring b).writeIndex with
  | none => simp [State.occ, hw] at h
  | some w =>
    cases hr : (s.ring b).readIndex with
    | none => simp [State.occ, hw, hr] at h
    | some r => exact (queue_length hw hr).trans (Option.some.inj ((occ_eq hw hr).symm.trans h))

/-- The third part of the triple is the number of bytes queued, where the invariant holds outside an INIT. -/
theorem triple_eq (hi : s.Inv) (hn : s.inInit = false) (ha : s.txArmed = some a) :
    s.triple = some ⟨a, s.txEn, (s.queue .tx).length⟩ := by
  obtain ⟨⟨-, w, r, hw, hr, -⟩, -, -⟩ := (inv_and_settled_iff hn).mp ⟨hi, Inv_settled hi hn (by simp [ha])⟩
  exact triple_eq_some_iff.mpr ⟨ha, rfl, by rw [queue_length hw hr, occ_eq hw hr]⟩

/-- A settled buffer that is not empty has an oldest byte, and it is written (10_state.md R33). -/
theorem RingOk.exists_oldest (h : RingOk s b y z) (hpos : 0 < (s.queue b).length) : ∃ v q, s.queue b = some v :: q := by
  obtain ⟨-, w, r, hw, hr, hc, -⟩ := h
  obtain ⟨u, q, hq⟩ := List.exists_cons_of_length_pos hpos
  obtain ⟨v, rfl⟩ := Option.isSome_iff_exists.mp (queue_isSome hw hr hc u (by simp [hq]))
  exact ⟨v, q, hq⟩

/-! ### The operations on the triple -/

/-- INIT leaves the enable and zeroes the rest, from every state with a meaning (42_interrupt.md R133). -/
theorem exec_init_triple (hb : s.inBounds = true) (hf : s.fg = none) :
    ∃ t, exec .init s = .next t ∧ t.triple = some ⟨false, s.txEn, 0⟩ :=
  ⟨_, exec_init hb hf, triple_eq_some_iff.mpr ⟨rfl, rfl, (occ_eq (b := .tx) rfl rfl).trans (by simp)⟩⟩

/-- An operation of the receive direction leaves the triple (10_state.md R29). -/
theorem Frame.triple (h : Frame o s t) (hi : o ≠ .init) (he : o ≠ .enq) (ht : o ≠ .txrdy) : t.triple = s.triple :=
  triple_congr (h.txArmed hi he ht) (h.txEn he ht) h.cfg (h.txWrite hi he) (h.txRead hi ht)

theorem enqFull_triple : (enqFull v s).triple = s.triple := by
  unfold enqFull
  split <;> rfl

section
variable (hi : s.Inv) (hf : s.fg = none) (hx : s.triple = some x)
include hi hf hx

/-- ENQ with room queues its byte and moves the triple as the rule says, arming and kicking the hardware just when it was not armed. -/
theorem exec_enq_moves (v : Byte) (he : s.hooks.getLsbD 2 = true) (hlt : x.queued < s.cfg.cap .tx) :
    ∃ t, exec (.enq v) s = .next t ∧ t.queue .tx = s.queue .tx ++ [some v] ∧ t.triple = some x.afterEnq ∧
      t.hookOut = s.hookOut ++ (if x.armed = false then [.setTxEn true] else []) := by
  obtain ⟨ha, hen, hocc⟩ := triple_eq_some_iff.mp hx
  obtain ⟨-, w, r, hw, hr, -⟩ := (buffersOk_of_idle hi hf (by simp [ha])).tx
  have hn : s.inInit = false := by simp [State.inInit, hf]
  have hlen := queue_length_of_occ hocc
  have hc : counterSub s.cfg w r < s.cfg.cap .tx := by rwa [← queue_length hw hr, hlen]
  obtain ⟨t, ht, hq, hft, hat, hten, hout⟩ : ∃ t, exec (.enq v) s = .next t ∧ t.queue .tx = s.queue .tx ++ [some v] ∧
      t.fg = s.fg ∧ t.txArmed = some true ∧ t.txEn = (if x.armed = false ∧ s.hooks.getLsbD 2 = true then true else s.txEn) ∧
      t.hookOut = (if x.armed = false ∧ s.hooks.getLsbD 2 = true then s.hookOut ++ [.setTxEn true] else s.hookOut) :=
    ⟨_, exec_enq_room (Inv_inBounds hi) hf hw hr ha hc.ne, queue_enqueue hw hr hc rfl rfl, rfl, rfl, rfl, rfl⟩
  refine ⟨t, ht, hq, ?_, ?_⟩
  · rw [triple_eq (inv_exec hi ht) ((inInit_congr hft).trans hn) hat, hten, hen, hq, List.length_append, hlen]
    cases harm : x.armed <;> simp [Triple.afterEnq, harm, he]
  · rw [hout]
    cases x.armed <;> simp [he]

/-- ENQ at a triple whose buffer is full ends as the policy says. -/
theorem exec_enq_at_capacity (v : Byte) (hfull : x.queued = s.cfg.cap .tx) :
    exec (.enq v) s = .next (enqFull v s) := by
  obtain ⟨ha, -, hocc⟩ := triple_eq_some_iff.mp hx
  obtain ⟨-, w, r, hw, hr, -⟩ := (buffersOk_of_idle hi hf (by simp [ha])).tx
  exact exec_enq_full (Inv_inBounds hi) hf hw hr (by rw [← queue_length hw hr, queue_length_of_occ hocc, hfull])

variable (hirq : s.irq = none) (hs : s.hooks.getLsbD 0 = true)
include hirq hs

/-- TXRDY with a byte queued sends the oldest and moves the triple as the rule says, disarming just when it was the last. -/
theorem exec_txrdy_moves (hpos : 0 < x.queued) :
    ∃ t v, exec .txrdy s = .next t ∧ s.queue .tx = some v :: t.queue .tx ∧ t.triple = some x.afterTxrdy ∧
      t.hookOut = s.hookOut ++ [.sendByte v] := by
  obtain ⟨ha, hen, hocc⟩ := triple_eq_some_iff.mp hx
  have hn : s.inInit = false := by simp [State.inInit, hf]
  have hne : s.txArmed ≠ none := by simp [ha]
  have hlen := queue_length_of_occ hocc
  obtain ⟨v, q, hq⟩ := (buffersOk_of_idle hi hf hne).tx.exists_oldest (hlen.symm ▸ hpos)
  obtain ⟨t, ht, htx, hout, harm, hten, -⟩ := exec_txrdy_takes hi hn hirq hne hs hq
  have harm' : t.txArmed = some (if q = [] then false else x.armed) := by rw [harm, ha]; split <;> rfl
  refine ⟨t, v, ht, htx ▸ hq, ?_, hout⟩
  rw [hq, List.length_cons] at hlen
  rw [triple_eq (inv_exec hi ht) ((inInit_congr (exec_fg ht nofun)).trans hn) harm', htx, hten, hen]
  simp [Triple.afterTxrdy, ← hlen]

/-- TXRDY with nothing queued disables the hardware and moves the triple as the rule says. -/
theorem exec_txrdy_empty_moves (he : s.hooks.getLsbD 2 = true) (h0 : x.queued = 0) :
    ∃ t, exec .txrdy s = .next t ∧ t.triple = some x.afterTxrdy ∧ t.hookOut = s.hookOut ++ [.setTxEn false] := by
  obtain ⟨ha, hen, hocc⟩ := triple_eq_some_iff.mp hx
  have hq : s.queue .tx = [] := List.length_eq_zero_iff.mp ((queue_length_of_occ hocc).trans h0)
  refine ⟨_, exec_txrdy_confirms hi (by simp [State.inInit, hf]) hirq (by simp [ha]) hs he hq, ?_, rfl⟩
  rw [Triple.afterTxrdy, if_pos h0]
  exact triple_eq_some_iff.mpr ⟨ha, rfl, hocc⟩

end

/-! ### The named states -/

/-- What the named states have in common (42_interrupt.md R134): `tx_armed` is true exactly when a byte is queued, and nothing is queued while the
hardware is disabled. -/
def Triple.Named (x : Triple) : Prop := (x.armed = true ↔ 1 ≤ x.queued) ∧ (x.enabled = false → x.queued = 0)

/-- No other state has it. -/
theorem Triple.named_iff : x.Named ↔ x.name ∈ [TxName.idle, .armedOrDraining, .drained] := by
  obtain ⟨a, e, n⟩ := x
  cases a <;> cases e <;> cases n <;> simp [Triple.Named, Triple.name]

namespace Triple.Named

theorem of_empty {e : Bool} : Named ⟨false, e, 0⟩ := ⟨by simp, fun _ => rfl⟩

theorem afterEnq (h : x.Named) : x.afterEnq.Named := by
  obtain ⟨harm, hen⟩ := h
  unfold Triple.afterEnq
  split
  · next ha => exact ⟨by simp [ha], fun he => absurd (hen he) (Nat.ne_of_gt (harm.mp ha))⟩
  · exact ⟨by simp, nofun⟩

theorem afterTxrdy (h : x.Named) : x.afterTxrdy.Named := by
  obtain ⟨harm, hen⟩ := h
  unfold Triple.afterTxrdy
  split
  · next h0 => exact ⟨harm, fun _ => h0⟩
  · next hne =>
    have ha : x.armed = true := harm.mpr (Nat.pos_of_ne_zero hne)
    refine ⟨?_, fun he => absurd (hen he) hne⟩
    by_cases h1 : x.queued = 1
    · simp [h1]
    · simp only [h1, if_false, ha, true_iff]
      omega

end Triple.Named

/-- No operation but BIND leaves the named states, both transmit hooks bound. -/
theorem exec_named {i : Instr} (hi : s.Inv) (hf : s.fg = none) (hirq : s.irq = none) (hs : s.hooks.getLsbD 0 = true)
    (he : s.hooks.getLsbD 2 = true) (hb : ∀ m, i ≠ .bind m) (hx : s.triple = some x) (hnamed : x.Named)
    (h : exec i s = .next t) : ∃ y, t.triple = some y ∧ y.Named := by
  have hfr := (exec_frame h).1
  obtain ⟨-, -, hocc⟩ := triple_eq_some_iff.mp hx
  cases i
  case init =>
    obtain ⟨t', ht, hy⟩ := exec_init_triple (Inv_inBounds hi) hf
    exact Host.Outcome.next.inj (ht.symm.trans h) ▸ ⟨_, hy, .of_empty⟩
  case bind m => exact absurd rfl (hb m)
  case enq v =>
    obtain hlt | hfull := (within_iff.mp (within_of_idle (Inv_inBounds hi) hf .tx) _ hocc).lt_or_eq
    · obtain ⟨t', ht, -, hy, -⟩ := exec_enq_moves hi hf hx v he hlt
      exact Host.Outcome.next.inj (ht.symm.trans h) ▸ ⟨_, hy, hnamed.afterEnq⟩
    · have ht := exec_enq_at_capacity hi hf hx v hfull
      exact Host.Outcome.next.inj (ht.symm.trans h) ▸ ⟨x, enqFull_triple.trans hx, hnamed⟩
  case txrdy =>
    obtain h0 | hpos := Nat.eq_zero_or_pos x.queued
    · obtain ⟨t', ht, hy, -⟩ := exec_txrdy_empty_moves hi hf hx hirq hs he h0
      exact Host.Outcome.next.inj (ht.symm.trans h) ▸ ⟨_, hy, hnamed.afterTxrdy⟩
    · obtain ⟨t', v, ht, -, hy, -⟩ := exec_txrdy_moves hi hf hx hirq hs hpos
      exact Host.Outcome.next.inj (ht.symm.trans h) ▸ ⟨_, hy, hnamed.afterTxrdy⟩
  case deq | rxcnt | rxbyte => exact ⟨x, (hfr.triple nofun nofun nofun).trans hx, hnamed⟩

end Sys2Proof.Machine

open Sys2Proof Sys2Proof.Machine

/-- Settles O56: the whole effects of ENQ, TXRDY and INIT, read on the triple. -/
theorem transmitMachine : Obligations.TransmitMachine := by
  unfold Obligations.TransmitMachine
  refine ⟨fun s x b hi hf hirq hs he hx => ⟨fun hlt => ?_, fun hfull => ?_, fun hpos => ?_, fun h0 => ?_⟩, fun s => exec_init_triple⟩
  · have hq : x.afterEnq = ⟨true, if x.armed = false then true else x.enabled, x.queued + 1⟩ := by
      cases harm : x.armed <;> simp [Triple.afterEnq, harm]
    exact hq ▸ exec_enq_moves hi hf hx b he hlt
  · refine ⟨enqFull b s, exec_enq_at_capacity hi hf hx b hfull, enqFull_triple.trans hx, ?_⟩
    cases hp : s.cfg.policy with
    | blocking => rw [enqFull_of_blocking hp]; exact ⟨rfl, queue_congr rfl rfl, (List.append_nil _).symm, rfl⟩
    | nonblocking => rw [enqFull_of_nonblocking hp hf]; exact ⟨rfl, queue_congr rfl rfl, rfl, hf⟩
  · have hq : x.afterTxrdy = ⟨if x.queued = 1 then false else x.armed, x.enabled, x.queued - 1⟩ := if_neg hpos.ne'
    exact hq ▸ exec_txrdy_moves hi hf hx hirq hs hpos
  · have hq : x.afterTxrdy = ⟨x.armed, false, 0⟩ := by simp [Triple.afterTxrdy, h0]
    exact hq ▸ exec_txrdy_empty_moves hi hf hx hirq hs he h0

/-- Settles O57: what the named states have in common is kept by the two functions of the transmit machine, and the other operations leave the triple
or empty it. -/
theorem namedStatesClosed : Obligations.NamedStatesClosed := by
  unfold Obligations.NamedStatesClosed
  intro i s t x hi hf hirq hh hb hx hname h
  have hnamed : x.Named := Triple.named_iff.mpr hname
  obtain ⟨y, hy, hynamed⟩ := exec_named hi hf hirq (by rw [hh]; rfl) (by rw [hh]; rfl) hb hx hnamed h
  obtain ⟨harm, hen⟩ := hnamed
  exact ⟨harm, hen, y, hy, Triple.named_iff.mp hynamed⟩

end

section
/-! SUPPORT. Where a callback faults (60_exceptions.md R152, R153 F1 and F3): at its first micro-step, or at any while it races an INIT. -/

namespace Sys2Proof.Machine

variable {s : State} {i : Instr} {q : IrqPos} {c : IrqRun} {e : Fault}

/-- An operation whose first micro-step faults is that fault. -/
theorem exec_fault (hf : s.inFlight i.port = false) (h : microStep i.port (startAt i s) = .fault e) : exec i s = .fault e :=
  (exec_of_idle hf).trans (runMicro_fault (startAt_inFlight i s) h)

/-- An operation of the IRQ port begins by entering a callback (60_exceptions.md R158). -/
theorem startAt_callback (hp : i.port = .irq) : ∃ q, startAt i s = s.enterCallback q := by
  cases i
  case txrdy => exact ⟨_, rfl⟩
  case rxbyte => exact ⟨_, rfl⟩
  all_goals cases hp

/-! ### The hook `send_byte` -/

theorem irqMicro_t1_unbound (hr : s.initRaced = false) (hs : s.hooks.getLsbD 0 = false) :
    irqMicro (.txrdy .t1) s = .fault .unboundSend := by
  have hb : s.bound .sendByte = false := hs
  simp [irqMicro, hr, txrdyMicro, hb]

/-! ### The INIT race -/

theorem irqMicro_raced (hr : s.initRaced = true) : irqMicro q s = .fault .initRace := if_pos hr

theorem initRaced_of_inInit (hn : s.inInit = true) : s.initRaced = true := by simp [State.initRaced, hn]

theorem initRaced_of_mark (hi : s.irq = some c) (hm : c.raced = true) : s.initRaced = true := by
  simp [State.initRaced, hi, hm]

/-- Inside an INIT every state has a meaning (log 27). -/
theorem inBounds_of_inInit (hn : s.inInit = true) : s.inBounds = true := by simp [State.inBounds, hn]

theorem microStep_irq_raced (hb : s.inBounds = true) (hi : s.irq = some c) (hr : s.initRaced = true) :
    microStep .irq s = .fault .initRace :=
  (microStep_irq hb hi).trans (irqMicro_raced hr)

/-- A callback issued inside an INIT is the race. -/
theorem exec_callback_raced (hp : i.port = .irq) (hn : s.inInit = true) (hi : s.irq = none) :
    exec i s = .fault .initRace := by
  refine exec_fault (by simp [hp, hi]) ?_
  obtain ⟨q, hq⟩ := startAt_callback (s := s) hp
  have hn' : (s.enterCallback q).inInit = true := hn
  rw [hp, hq]
  exact microStep_irq_raced (inBounds_of_inInit hn') rfl (initRaced_of_inInit hn')

end Sys2Proof.Machine

open Sys2Proof Sys2Proof.Machine

/-- Settles O27: T1, the first micro-step, finds the hook unbound before any counter is read. -/
theorem unboundSendFaults : Obligations.UnboundSendFaults := by
  unfold Obligations.UnboundSendFaults
  intro s hb hi hn hs
  have hidle : s.inFlight Instr.txrdy.port = false := by simp [Instr.port, hi]
  refine exec_fault hidle ?_
  refine (microStep_irq ((startAt_inBounds hidle).trans hb) rfl).trans ?_
  exact irqMicro_t1_unbound (enterCallback_initRaced hn) hs

/-- Settles O28: the race is tested before the micro-step itself, and inside an INIT every state has a meaning. -/
theorem initRaceFaults : Obligations.InitRaceFaults := by
  unfold Obligations.InitRaceFaults
  intro s
  refine ⟨fun hn hi => ⟨exec_callback_raced rfl hn hi, fun b => exec_callback_raced rfl hn hi⟩, fun hn hi => ?_,
    fun c hb hi hm => microStep_irq_raced hb hi (initRaced_of_mark hi hm)⟩
  obtain ⟨c, hc⟩ := Option.isSome_iff_exists.mp hi
  exact microStep_irq_raced (inBounds_of_inInit hn) hc (initRaced_of_inInit hn)

end

section
/-! SUPPORT. What a step may refuse (60_exceptions.md R153, R159; logs 15, 27): a state without meaning or an illegal word on the IRQ port, and
nothing else; in particular no operation is issued to a context that has one in flight. -/

namespace Sys2Proof.Machine

variable {s : State} {p : Port} {i : Instr} {e : Refusal}

theorem andThen_eq_refused {x : Result} {f : State → Result} :
    andThen x f = .refused e ↔ x = .refused e ∨ ∃ u, x = .next u ∧ f u = .refused e := by
  cases x <;> simp

theorem ifInBounds_eq_refused {x : Result} (h : ifInBounds s x = .refused e) : e = .brokenOccupancy ∨ x = .refused e := by
  cases hb : s.inBounds
  · rw [ifInBounds_broken hb] at h
    cases h
    exact .inl rfl
  · exact .inr ((ifInBounds_of hb x).symm.trans h)

/-- No labelled micro-step of FG is refused: each answers or faults. -/
theorem fgMicro_ne_refused (q : FgPos) (e : Refusal) : fgMicro q s ≠ .refused e := by
  rcases q with q | q | q | q | q
  case init => cases q <;> exact nofun
  case bind => cases q <;> exact nofun
  case enq =>
    cases q
    case e6 | e7 | e8 => exact nofun
    all_goals exact orUninit_ne_refused fun _ => nofun
  case deq =>
    cases q
    case q3 => exact orUninit_ne_refused fun _ => orUninit_ne_refused fun _ => nofun
    case q5 => exact nofun
    all_goals exact orUninit_ne_refused fun _ => nofun
  case rxcnt => cases q <;> exact orUninit_ne_refused fun _ => nofun

/-- A micro-step refuses nothing but a state without meaning (10_state.md R23). -/
theorem microStep_refused (h : microStep p s = .refused e) : e = .brokenOccupancy := by
  refine (ifInBounds_eq_refused h).resolve_right ?_
  cases p
  case fg =>
    cases hf : s.fg with
    | none => exact nofun
    | some q => exact fgMicro_ne_refused q e
  case irq =>
    cases hi : s.irq with
    | none => exact nofun
    | some c => exact irqMicro_ne_refused e

theorem runMicro_refused {n : Nat} (h : runMicro p n s = .refused e) : e = .brokenOccupancy := by
  induction n generalizing s with
  | zero => cases h
  | succ n ih =>
    simp only [runMicro] at h
    split at h
    · obtain h | ⟨u, -, h⟩ := andThen_eq_refused.mp h
      · exact microStep_refused h
      · split at h
        · cases h
        · exact ih h
    · cases h

/-- An operation accepted by an idle context is refused only for a state without meaning. -/
theorem accept_refused {g : Grain} (hf : s.inFlight i.port = false) (h : accept g i s = .refused e) : e = .brokenOccupancy := by
  cases g
  case micro => exact microStep_refused ((issueMicro_of_idle hf).symm.trans h)
  case whole => exact runMicro_refused ((exec_of_idle hf).symm.trans h)

/-- A turn refuses a state without meaning, or an illegal word (30_encoding.md R77): an agent takes a word only when it is idle. -/
theorem turn_refused {g : Grain} (h : turn p g s = .refused e) : e = .brokenOccupancy ∨ e = .illegalWord := by
  unfold turn at h
  split at h
  · cases g
    case micro => exact .inl (microStep_refused h)
    case whole => exact .inl (runMicro_refused h)
  · next hf =>
    unfold takeWord at h
    split at h
    · cases h
    · next w ws _ =>
      split at h
      · cases p <;> cases h
        exact .inr rfl
      · next i hd =>
        obtain rfl := port_of_decodeOn hd
        exact .inl (accept_refused (by simpa using hf) h)

/-- The refusals of a step, complete. -/
theorem step_refused (h : step s = .refused e) : e = .brokenOccupancy ∨ e = .illegalWord :=
  (ifInBounds_eq_refused h).elim .inl turn_refused

/-- An operation issued to a busy context is refused (60_exceptions.md R159; log 15). -/
theorem exec_busy (hf : s.inFlight i.port = true) : exec i s = .refused .contextBusy :=
  (exec_eq_issue i s).trans (if_pos hf)

end Sys2Proof.Machine

open Sys2Proof Sys2Proof.Machine

/-- Settles O29: issuing tests the context, and the refusals of a step are two others. -/
theorem noNesting : Obligations.NoNesting := by
  unfold Obligations.NoNesting
  refine ⟨fun s i hf => exec_busy hf, fun s h => ?_⟩
  obtain he | he := step_refused h <;> cases he

end

section
/-! SUPPORT. A preempted operation keeps its place (60_exceptions.md R158). -/

open Sys2Proof Sys2Proof.Machine

/-- Settles O34, by what the micro-steps of each agent keep. -/
theorem preemptedKeepsItsPlace : Obligations.PreemptedKeepsItsPlace := by
  unfold Obligations.PreemptedKeepsItsPlace
  refine fun s t => ⟨fun h => ?_, fun h => ?_⟩
  · have k := microStep_irq_keeps h
    exact ⟨k.fg, k.fgIn, k.irqIn, k.rspOut⟩
  · have k := microStep_fg_keeps h
    exact ⟨k.irqPos, k.fgIn, k.irqIn⟩

end

section
/-! SUPPORT. The two callbacks commute (60_exceptions.md R157): RXBYTE changes the receive buffer alone, by what it finds there; TXRDY neither reads nor
writes that buffer (10_state.md R29); and each leaves a state with a meaning, in which the other can run. -/

namespace Sys2Proof.Machine

variable {s t : State} {i : Instr} {c : IrqRun} {v : Byte} {w r : Nat}

/-! ### What a callback that answers has found -/

/-- A callback that answers was issued in a state with a meaning, with no other callback in flight and outside an INIT. -/
theorem exec_callback_begins (hp : i.port = .irq) (h : exec i s = .next t) :
    s.inBounds = true ∧ s.irq = none ∧ s.inInit = false := by
  obtain ⟨hf, ⟨u, hu⟩, -⟩ := exec_first h
  obtain ⟨q, hq⟩ := startAt_callback (s := s) hp
  rw [hp, hq] at hu
  obtain ⟨hb, ⟨hne, -⟩ | ⟨-, ⟨c, hc, hm⟩ | ⟨hnone, -⟩⟩⟩ := microStep_eq_next.mp hu
  rw [← hq, startAt_inBounds hf] at hb
  · cases hne
  · exact ⟨hb, by simpa [hp] using hf, (not_raced (irqMicro_eq_next.mp hm).1 hc).1⟩
  · cases hnone

/-- A callback's run that answers makes a labelled micro-step, and the rest is a run from there: a callback is never held. -/
theorem runMicro_irq_first {n : Nat} (hi : s.irq = some c) (h : runMicro .irq (n + 1) s = .next t) :
    ∃ u, irqMicro c.pos s = .next u ∧ runMicro .irq n u = .next t := by
  have hf : s.inFlight .irq = true := by simp [hi]
  simp only [runMicro, hf, if_true] at h
  obtain ⟨u, hu, h⟩ := andThen_eq_next.mp h
  rw [if_neg (by simp)] at h
  exact ⟨u, (microStep_irq (microStep_eq_next.mp hu).1 hi).symm.trans hu, h⟩

/-- An RXBYTE that answers has read both counters, at B1 and B2. -/
theorem exec_rxbyte_reads (h : exec (.rxbyte v) s = .next t) :
    ∃ w r, s.rx.writeIndex = some w ∧ s.rx.readIndex = some r := by
  obtain ⟨-, -, h⟩ := exec_first h
  obtain ⟨u, hb1, h⟩ := runMicro_irq_first (c := ⟨.rxbyte (.b1 v), false⟩) rfl h
  obtain ⟨-, r, hr, rfl⟩ := rxbyte_b1_next.mp hb1
  obtain ⟨u, hb2, -⟩ := runMicro_irq_first (c := ⟨.rxbyte (.b2 v r), false⟩) rfl h
  obtain ⟨-, w, hw, -⟩ := rxbyte_b2_next.mp hb2
  exact ⟨w, r, hw, hr⟩

/-- A TXRDY that answers has found `send_byte` bound at T1, read both counters at T2 and T3, and, where a byte is queued, loaded it at T4. -/
theorem exec_txrdy_reads (h : exec .txrdy s = .next t) :
    s.hooks.getLsbD 0 = true ∧ ∃ w r, s.tx.writeIndex = some w ∧ s.tx.readIndex = some r ∧
      (counterSub s.cfg w r ≠ 0 → ∃ v, s.memRead .tx (slotOf s.cfg .tx r) = some v) := by
  obtain ⟨-, -, h⟩ := exec_first h
  obtain ⟨u, ht1, h⟩ := runMicro_irq_first (c := ⟨.txrdy .t1, false⟩) rfl h
  obtain ⟨-, hs, rfl⟩ := txrdy_t1_next.mp ht1
  obtain ⟨u, ht2, h⟩ := runMicro_irq_first (c := ⟨.txrdy .t2, false⟩) rfl h
  obtain ⟨-, w, hw, rfl⟩ := txrdy_t2_next.mp ht2
  obtain ⟨u, ht3, h⟩ := runMicro_irq_first (c := ⟨.txrdy (.t3 w), false⟩) rfl h
  obtain ⟨-, r, hr, rfl⟩ := txrdy_t3_next.mp ht3
  refine ⟨hs, w, r, hw, hr, fun hne => ?_⟩
  obtain ⟨u, ht4, -⟩ := runMicro_irq_first (c := ⟨.txrdy .t4, false⟩) (by simp [startAt, hne]) h
  obtain ⟨-, r', v, hr', hv, -⟩ := txrdy_t4_next.mp ht4
  obtain rfl : r' = r := Option.some.inj (hr'.symm.trans hr)
  exact ⟨v, hv⟩

/-! ### What it leaves -/

/-- The receive buffer after a byte is received: pushed if there is room, else as it was (42_interrupt.md R131, R136). -/
def Ring.received (x : Ring) (c : Config) (v : Byte) (w r : Nat) : Ring :=
  if counterSub c w r = c.cap .rx then x
  else { x with storage := x.storage.write (slotOf c .rx w) v, writeIndex := some (counterInc c w) }

/-- RXBYTE's whole effect, with room or without: the receive buffer alone changes. -/
theorem exec_rxbyte_received (hb : s.inBounds = true) (hi : s.irq = none) (hn : s.inInit = false)
    (hw : s.rx.writeIndex = some w) (hr : s.rx.readIndex = some r) :
    exec (.rxbyte v) s = .next (s.withRx (s.rx.received s.cfg v w r)) := by
  by_cases hfull : counterSub s.cfg w r = s.cfg.cap .rx
  · rw [Ring.received, if_pos hfull]
    exact exec_rxbyte_drops hb hi hn hw hr hfull
  · rw [Ring.received, if_neg hfull]
    exact exec_rxbyte_stores hb hi hn hw hr hfull

/-- RXBYTE leaves a state with a meaning: it pushes only where there is room. -/
theorem received_inBounds (hb : s.inBounds = true) (hn : s.inInit = false) (hw : s.rx.writeIndex = some w)
    (hr : s.rx.readIndex = some r) : (s.withRx (s.rx.received s.cfg v w r)).inBounds = true := by
  by_cases hfull : counterSub s.cfg w r = s.cfg.cap .rx
  · rw [Ring.received, if_pos hfull]
    exact hb
  · rw [Ring.received, if_neg hfull]
    have hin := within_of_not_inInit hb hn
    have hne : s.occ .rx ≠ some (s.cfg.cap .rx) := by simpa [occ_eq (b := .rx) hw hr] using hfull
    exact inBounds_of_within (hin .tx) (within_push (b := .rx) (hin .rx) hw hne)

/-- TXRDY leaves a state with a meaning: it pops only where a byte is queued. -/
theorem exec_txrdy_inBounds (h : exec .txrdy s = .next t) : t.inBounds = true := by
  obtain ⟨hb, hi, hn⟩ := exec_callback_begins rfl h
  obtain ⟨hs, w, r, hw, hr, hv⟩ := exec_txrdy_reads h
  have hin := within_of_not_inInit hb hn
  by_cases h0 : counterSub s.cfg w r = 0
  · rw [exec_txrdy_disables hb hi hn hs hw hr h0] at h
    cases h
    exact hb
  · obtain ⟨v, hv⟩ := hv h0
    rw [exec_txrdy_sends hb hi hn hs hw hr h0 hv] at h
    cases h
    have hne : s.occ .tx ≠ some 0 := by simpa [occ_eq (b := .tx) hw hr] using h0
    exact inBounds_of_within (within_pop (b := .tx) (hin .tx) hr hne) (hin .rx)

/-- TXRDY leaves the receive buffer. -/
theorem exec_txrdy_rx (h : exec .txrdy s = .next t) : t.rx = s.rx := by
  have hfr := (exec_frame h).1
  exact Ring.ext (exec_storage (b := .rx) (by simp [opOf, producer]) h) (hfr.rxWrite nofun nofun) (hfr.rxRead nofun nofun)

end Sys2Proof.Machine

open Sys2Proof Sys2Proof.Machine

/-- Settles O50: after a TXRDY the RXBYTE finds the same receive buffer, and the TXRDY does the same whatever that buffer holds. -/
theorem callbacksCommute : Obligations.CallbacksCommute := by
  unfold Obligations.CallbacksCommute
  intro s t u b ht hu
  obtain ⟨hb, hi, hn⟩ := exec_callback_begins rfl ht
  obtain ⟨w, r, hw, hr⟩ := exec_rxbyte_reads hu
  obtain rfl : s.withRx (s.rx.received s.cfg b w r) = u :=
    Host.Outcome.next.inj ((exec_rxbyte_received hb hi hn hw hr).symm.trans hu)
  have hrx : t.rx = s.rx := exec_txrdy_rx ht
  have hcfg : t.cfg = s.cfg := (exec_frame ht).1.cfg
  refine ⟨t.withRx (s.rx.received s.cfg b w r), ?_, ?_⟩
  · rw [← hrx, ← hcfg]
    refine exec_rxbyte_received (exec_txrdy_inBounds ht) ((exec_irq ht nofun).trans hi) ?_ (hrx ▸ hw) (hrx ▸ hr)
    exact (inInit_congr (exec_fg ht nofun)).trans hn
  · rw [exec_withRx (.inr (.inr rfl)) ((received_inBounds hb hn hw hr).trans hb.symm), ht]
    rfl

end

section
/-! SUPPORT. The counter width cannot be observed (70_reset_and_hazards.md R195; 40_ringbuffer.md R98, R99): a state and the same state at another width
have counters that designate the same slots and, outside an INIT, differ by as much, and copies of counters that show the same occupancy. States so
related run side by side, though their counters and copies have other values. -/

namespace Sys2Proof.Machine

variable {s t : State} {b : Buf} {p : Port} {i : Instr} {c d : Config} {x y : Ring} {v v' : Nat}

/-! ### Results of reading other values -/

namespace Alike

variable {R Q : State → State → Prop} {a a' : Result}

/-- What is known of both next states may be used. -/
theorem imp_next (h : Alike R a a') (hQ : ∀ s t, a = .next s → a' = .next t → R s t → Q s t) : Alike Q a a' := by
  cases h with
  | next h => exact .next (hQ _ _ rfl rfl h)
  | fault e => exact .fault e
  | refused e => exact .refused e

/-- Two elements that are both unwritten, or both written and of the same use, are read. -/
theorem orUninit_map {α β : Type} {o o' : Option α} {f f' : α → β} {k k' : α → Result} (h : o'.map f' = o.map f)
    (hk : ∀ v v', o = some v → o' = some v' → f' v' = f v → Alike R (k v) (k' v')) :
    Alike R (Machine.orUninit o k) (Machine.orUninit o' k') := by
  cases o <;> cases o' <;> simp only [Option.map_some, Option.map_none, Option.some.injEq, reduceCtorEq] at h
  · exact .fault _
  · exact hk _ _ rfl rfl h

/-- Alike machines run alike. -/
theorem run (hstep : ∀ s t, R s t → Alike R (Machine.step s) (Machine.step t)) (n : Nat) (h : R s t) :
    Alike R (Host.Core.run Sys2Proof.core n s) (Host.Core.run Sys2Proof.core n t) := by
  induction n generalizing s t with
  | zero => exact .next h
  | succ n ih =>
    have hs : Sys2Proof.core.step = Machine.step := rfl
    have hst := hstep s t h
    simp only [Host.Core.run, hs]
    generalize Machine.step s = u, Machine.step t = w at hst
    cases hst with
    | next h => exact ih h
    | fault e => exact .fault e
    | refused e => exact .refused e

end Alike

/-! ### The relation -/

/-- The same state at another counter width, with the counters and copies it has there. -/
def State.atWidth (s : State) (x : Nat) (tx rx : Ring) (fg : Option FgPos) (irq : Option IrqRun) : State :=
  { s with cfg := { s.cfg with extra := x }, tx := tx, rx := rx, fg := fg, irq := irq }

/-- A buffer at two widths: the same storage, and counters that designate the same slots (20_memory.md R51). -/
structure SlotsAlike (c d : Config) (b : Buf) (x y : Ring) : Prop where
  storage : y.storage = x.storage
  write : y.writeIndex.map (slotOf d b) = x.writeIndex.map (slotOf c b)
  read : y.readIndex.map (slotOf d b) = x.readIndex.map (slotOf c b)

/-- Two producers' copies of the consumer's index that show the same occupancy, at P2 (40_ringbuffer.md R94). -/
def SameTest (c d : Config) (x y : Ring) (r r' : Nat) : Prop :=
  y.writeIndex.map (counterSub d · r') = x.writeIndex.map (counterSub c · r)

/-- Two consumers' copies of the producer's index that show the same occupancy, at O2 (40_ringbuffer.md R95). -/
def SameCount (c d : Config) (x y : Ring) (w w' : Nat) : Prop :=
  y.readIndex.map (counterSub d w') = x.readIndex.map (counterSub c w)

/-- FG's operation holds a copy of a counter. -/
def FgPos.holdsCopy : FgPos → Bool
  | .enq (.e2 _ _) | .deq (.q2 _) | .rxcnt (.n2 _) => true
  | _ => false

/-- The callback holds a copy of a counter. -/
def IrqPos.holdsCopy : IrqPos → Bool
  | .txrdy (.t3 _) | .txrdy (.t8 _) | .rxbyte (.b2 _ _) => true
  | _ => false

/-- FG is at the same position, a copy apart that shows the same. -/
inductive FgApart (test count : Nat → Nat → Prop) : Option FgPos → Option FgPos → Prop
  | idle : FgApart test count none none
  | same {q : FgPos} (h : q.holdsCopy = false) : FgApart test count (some q) (some q)
  | e2 {b : Byte} {r r' : Nat} (h : test r r') : FgApart test count (some (.enq (.e2 b r))) (some (.enq (.e2 b r')))
  | q2 {w w' : Nat} (h : count w w') : FgApart test count (some (.deq (.q2 w))) (some (.deq (.q2 w')))
  | n2 {w w' : Nat} (h : count w w') : FgApart test count (some (.rxcnt (.n2 w))) (some (.rxcnt (.n2 w')))

/-- The callback in flight is at the same position, a copy apart that shows the same; of one that an INIT has overlapped, which can only
fault, nothing is asked. -/
inductive IrqApart (test count : Nat → Nat → Prop) : Option IrqRun → Option IrqRun → Prop
  | idle : IrqApart test count none none
  | raced {q q' : IrqPos} : IrqApart test count (some ⟨q, true⟩) (some ⟨q', true⟩)
  | same {q : IrqPos} (h : q.holdsCopy = false) : IrqApart test count (some ⟨q, false⟩) (some ⟨q, false⟩)
  | t3 {w w' : Nat} (h : count w w') :
    IrqApart test count (some ⟨.txrdy (.t3 w), false⟩) (some ⟨.txrdy (.t3 w'), false⟩)
  | t8 {w w' : Nat} (h : count w w') :
    IrqApart test count (some ⟨.txrdy (.t8 w), false⟩) (some ⟨.txrdy (.t8 w'), false⟩)
  | b2 {b : Byte} {r r' : Nat} (h : test r r') :
    IrqApart test count (some ⟨.rxbyte (.b2 b r), false⟩) (some ⟨.rxbyte (.b2 b r'), false⟩)

/-- The states differ in the width, the counters and what is in flight only, and their counters designate the same slots. -/
structure BlockApart (s t : State) : Prop where
  same : ∃ x tx rx fg irq, t = s.atWidth x tx rx fg irq
  tx : SlotsAlike s.cfg t.cfg .tx s.tx t.tx
  rx : SlotsAlike s.cfg t.cfg .rx s.rx t.rx

/-- One state is the other at another counter width. -/
structure WidthApart (s t : State) : Prop where
  block : BlockApart s t
  occ : s.inInit = false → ∀ b, t.occ b = s.occ b
  fg : FgApart (SameTest s.cfg t.cfg s.tx t.tx) (SameCount s.cfg t.cfg s.rx t.rx) s.fg t.fg
  irq : IrqApart (SameTest s.cfg t.cfg s.rx t.rx) (SameCount s.cfg t.cfg s.tx t.tx) s.irq t.irq

/-! ### What the updates keep of it -/

namespace BlockApart

variable (h : BlockApart s t)
include h

theorem ring (b : Buf) : SlotsAlike s.cfg t.cfg b (s.ring b) (t.ring b) := by
  cases b
  · exact h.tx
  · exact h.rx

theorem cap (b : Buf) : t.cfg.cap b = s.cfg.cap b := by
  obtain ⟨x, tx, rx, fg, irq, rfl⟩ := h.same
  cases b <;> rfl

theorem policy : t.cfg.policy = s.cfg.policy := by obtain ⟨x, tx, rx, fg, irq, rfl⟩ := h.same; rfl

theorem txArmed : t.txArmed = s.txArmed := by obtain ⟨x, tx, rx, fg, irq, rfl⟩ := h.same; rfl

theorem memRead (b : Buf) (a : Nat) : t.memRead b a = s.memRead b a := by
  rw [State.memRead, State.memRead, (h.ring b).storage]

theorem bound (k : Hook) : t.bound k = s.bound k := by obtain ⟨x, tx, rx, fg, irq, rfl⟩ := h.same; rfl

/-- The increments of two counters that designate the same slot do (R92). -/
theorem slotOf_counterInc (hv : slotOf t.cfg b v' = slotOf s.cfg b v) :
    slotOf t.cfg b (counterInc t.cfg v') = slotOf s.cfg b (counterInc s.cfg v) := by
  rw [Machine.slotOf_counterInc, Machine.slotOf_counterInc, hv, h.cap]

theorem setFg (q q' : Option FgPos) : BlockApart (s.setFg q) (t.setFg q') := by
  obtain ⟨⟨x, tx, rx, fg, irq, rfl⟩, h1, h2⟩ := h
  exact ⟨⟨x, _, _, _, _, rfl⟩, h1, h2⟩

theorem setIrq (z z' : Option IrqRun) : BlockApart { s with irq := z } { t with irq := z' } := by
  obtain ⟨⟨x, tx, rx, fg, irq, rfl⟩, h1, h2⟩ := h
  exact ⟨⟨x, _, _, _, _, rfl⟩, h1, h2⟩

theorem setWriteIndex (hv : slotOf t.cfg b v' = slotOf s.cfg b v) :
    BlockApart (s.setWriteIndex b v) (t.setWriteIndex b v') := by
  obtain ⟨⟨x, tx, rx, fg, irq, rfl⟩, h1, h2⟩ := h
  cases b
  · exact ⟨⟨x, _, _, _, _, rfl⟩, ⟨h1.storage, congrArg some hv, h1.read⟩, h2⟩
  · exact ⟨⟨x, _, _, _, _, rfl⟩, h1, ⟨h2.storage, congrArg some hv, h2.read⟩⟩

theorem setReadIndex (hv : slotOf t.cfg b v' = slotOf s.cfg b v) :
    BlockApart (s.setReadIndex b v) (t.setReadIndex b v') := by
  obtain ⟨⟨x, tx, rx, fg, irq, rfl⟩, h1, h2⟩ := h
  cases b
  · exact ⟨⟨x, _, _, _, _, rfl⟩, ⟨h1.storage, h1.write, congrArg some hv⟩, h2⟩
  · exact ⟨⟨x, _, _, _, _, rfl⟩, h1, ⟨h2.storage, h2.write, congrArg some hv⟩⟩

end BlockApart

/-! ### What is read of it -/

/-- A fresh copy of the consumer's index shows what is queued. -/
theorem sameTest_of_occ {r r' : Nat} (ho : t.occ b = s.occ b) (hr : (s.ring b).readIndex = some r)
    (hr' : (t.ring b).readIndex = some r') : SameTest s.cfg t.cfg (s.ring b) (t.ring b) r r' := by
  cases hw : (s.ring b).writeIndex <;> cases hw' : (t.ring b).writeIndex <;> simp_all [SameTest, State.occ]

/-- A fresh copy of the producer's index shows what is queued. -/
theorem sameCount_of_occ {w w' : Nat} (ho : t.occ b = s.occ b) (hw : (s.ring b).writeIndex = some w)
    (hw' : (t.ring b).writeIndex = some w') : SameCount s.cfg t.cfg (s.ring b) (t.ring b) w w' := by
  cases hr : (s.ring b).readIndex <;> cases hr' : (t.ring b).readIndex <;> simp_all [SameCount, State.occ]

/-- A push into buffers with room keeps the occupancies the same: neither counter difference passes its modulus (R98). -/
theorem occ_setWriteIndex {w w' : Nat} (hb : BlockApart s t) (ho : t.occ b = s.occ b) (hw : (s.ring b).writeIndex = some w)
    (hw' : (t.ring b).writeIndex = some w') (hlt : ∀ n, s.occ b = some n → n < s.cfg.cap b) :
    (t.setWriteIndex b (counterInc t.cfg w')).occ b = (s.setWriteIndex b (counterInc s.cfg w)).occ b := by
  have hc := cap_lt s.cfg b
  have hd := cap_lt t.cfg b
  rw [hb.cap] at hd
  cases hr : (s.ring b).readIndex <;> cases hr' : (t.ring b).readIndex <;>
    simp_all [State.occ]
  rw [counterSub_inc_left (by omega), counterSub_inc_left (by omega), ho]

/-- So does a pop from buffers that are not empty. -/
theorem occ_setReadIndex {r r' : Nat} (ho : t.occ b = s.occ b) (hr : (s.ring b).readIndex = some r)
    (hr' : (t.ring b).readIndex = some r') (hpos : ∀ n, s.occ b = some n → 0 < n) :
    (t.setReadIndex b (counterInc t.cfg r')).occ b = (s.setReadIndex b (counterInc s.cfg r)).occ b := by
  cases hw : (s.ring b).writeIndex <;> cases hw' : (t.ring b).writeIndex <;>
    simp_all [State.occ]
  have h1 := counterSub_inc_right hpos
  have h2 := counterSub_inc_right (ho ▸ hpos)
  omega

/-! ### The other updates -/

namespace WidthApart

variable (h : WidthApart s t)
include h

theorem setArmed (a : Bool) : WidthApart (s.setArmed a) (t.setArmed a) := by
  obtain ⟨⟨⟨x, tx, rx, fg, irq, rfl⟩, h1, h2⟩, ho, hf, hi⟩ := h
  exact ⟨⟨⟨x, _, _, _, _, rfl⟩, h1, h2⟩, ho, hf, hi⟩

theorem setHooks (m : BitVec 3) : WidthApart (s.setHooks m) (t.setHooks m) := by
  obtain ⟨⟨⟨x, tx, rx, fg, irq, rfl⟩, h1, h2⟩, ho, hf, hi⟩ := h
  exact ⟨⟨⟨x, _, _, _, _, rfl⟩, h1, h2⟩, ho, hf, hi⟩

theorem respond (st : Status) (n : Nat) : WidthApart (s.respond st n) (t.respond st n) := by
  obtain ⟨⟨⟨x, tx, rx, fg, irq, rfl⟩, h1, h2⟩, ho, hf, hi⟩ := h
  exact ⟨⟨⟨x, _, _, _, _, rfl⟩, h1, h2⟩, ho, hf, hi⟩

theorem emit (e : HookEvent) : WidthApart (s.emit e) (t.emit e) := by
  obtain ⟨⟨⟨x, tx, rx, fg, irq, rfl⟩, h1, h2⟩, ho, hf, hi⟩ := h
  cases e <;> exact ⟨⟨⟨x, _, _, _, _, rfl⟩, h1, h2⟩, ho, hf, hi⟩

theorem setWords (p : Port) (ws : List Word) : WidthApart (s.setWords p ws) (t.setWords p ws) := by
  obtain ⟨⟨⟨x, tx, rx, fg, irq, rfl⟩, h1, h2⟩, ho, hf, hi⟩ := h
  cases p <;> exact ⟨⟨⟨x, _, _, _, _, rfl⟩, h1, h2⟩, ho, hf, hi⟩

theorem dropTurn : WidthApart s.dropTurn t.dropTurn := by
  obtain ⟨⟨⟨x, tx, rx, fg, irq, rfl⟩, h1, h2⟩, ho, hf, hi⟩ := h
  cases hs : s.turns <;> simp only [State.dropTurn, State.atWidth, hs] <;>
    exact ⟨⟨⟨x, _, _, _, _, rfl⟩, h1, h2⟩, ho, hf, hi⟩

theorem memWrite (b : Buf) (a : Nat) (u : Byte) : WidthApart (s.memWrite b a u) (t.memWrite b a u) := by
  obtain ⟨⟨⟨x, tx, rx, fg, irq, rfl⟩, h1, h2⟩, ho, hf, hi⟩ := h
  cases b
  · exact ⟨⟨⟨x, _, _, _, _, rfl⟩, ⟨congrArg (Memory.write · a u) h1.storage, h1.write, h1.read⟩, h2⟩,
      fun hn b => by cases b; exacts [ho hn .tx, ho hn .rx], hf, hi⟩
  · exact ⟨⟨⟨x, _, _, _, _, rfl⟩, h1, ⟨congrArg (Memory.write · a u) h2.storage, h2.write, h2.read⟩⟩,
      fun hn b => by cases b; exacts [ho hn .tx, ho hn .rx], hf, hi⟩

theorem emitIfBound (e : HookEvent) : WidthApart (s.emitIfBound e) (t.emitIfBound e) := by
  rw [State.emitIfBound, State.emitIfBound, h.block.bound]
  exact rel_ite (h.emit e) h

theorem armIf (a : Bool) : WidthApart (armIf a s) (armIf a t) := rel_ite h (h.setArmed true)

theorem kickIf (a : Bool) : WidthApart (kickIf a s) (kickIf a t) := rel_ite h (h.emitIfBound _)

theorem disarmIf (n : Nat) : WidthApart (disarmIf n s) (disarmIf n t) := rel_ite (h.setArmed false) h

theorem setFg {q q' : Option FgPos}
    (hq : FgApart (SameTest s.cfg t.cfg s.tx t.tx) (SameCount s.cfg t.cfg s.rx t.rx) q q')
    (ho : ∀ b, t.occ b = s.occ b) : WidthApart (s.setFg q) (t.setFg q') :=
  ⟨h.block.setFg q q', fun _ => ho, hq, h.irq⟩

theorem setIrq {z z' : Option IrqRun}
    (hz : IrqApart (SameTest s.cfg t.cfg s.rx t.rx) (SameCount s.cfg t.cfg s.tx t.tx) z z') :
    WidthApart { s with irq := z } { t with irq := z' } :=
  ⟨h.block.setIrq z z', h.occ, h.fg, hz⟩

theorem endCallback : WidthApart s.endCallback t.endCallback := h.setIrq .idle

theorem returns (ho : ∀ b, t.occ b = s.occ b) (st : Status) (n : Nat) : WidthApart (s.returns st n) (t.returns st n) :=
  (h.respond st n).setFg .idle ho

end WidthApart

end Sys2Proof.Machine
end

section
/-! SUPPORT. Every micro-step, and so every run, keeps two widths side by side (70_reset_and_hazards.md R195). -/

namespace Sys2Proof.Machine

variable {s t : State} {b : Buf} {p : Port} {i : Instr} {c c' : IrqRun} {w r : Nat} {x : PushStage} {y : PopStage} {u : Byte}

/-! ### What the invariant adds -/

/-- With a write counter written, a state outside an INIT is settled. -/
theorem settled_of_written (hi : s.Inv) (hn : s.inInit = false) (hw : (s.ring b).writeIndex = some w) : settled s := by
  refine ((inv_iff hn).mp hi).2.2.resolve_left fun hfresh => ?_
  obtain ⟨h1, -, h3, -⟩ := hfresh
  cases b
  · exact absurd (h1.symm.trans hw) nofun
  · exact absurd (h3.symm.trans hw) nofun

/-- With a read counter written too. -/
theorem settled_of_read (hi : s.Inv) (hn : s.inInit = false) (hr : (s.ring b).readIndex = some r) : settled s := by
  refine ((inv_iff hn).mp hi).2.2.resolve_left fun hfresh => ?_
  obtain ⟨-, h2, -, h4, -⟩ := hfresh
  cases b
  · exact absurd (h2.symm.trans hr) nofun
  · exact absurd (h4.symm.trans hr) nofun

/-- At P4 there is room. -/
theorem RingOk.occ_lt (h : RingOk s b (.stored u) y) : ∀ n, s.occ b = some n → n < s.cfg.cap b := by
  obtain ⟨-, w, r, hw, hr, -, ⟨hlt, -⟩, -⟩ := h
  intro n hn
  rwa [← Option.some.inj ((occ_eq hw hr).symm.trans hn)]

/-- At O4 there is a byte. -/
theorem RingOk.occ_pos (h : RingOk s b x (.loaded u)) : ∀ n, s.occ b = some n → 0 < n := by
  obtain ⟨-, w, r, hw, hr, -, -, hpos, -⟩ := h
  intro n hn
  rwa [← Option.some.inj ((occ_eq hw hr).symm.trans hn)]

theorem slotOf_zero (c : Config) (b : Buf) : slotOf c b 0 = 0 := Nat.zero_and _

/-- At INIT's I6 every buffer is empty, whatever the width. -/
theorem occ_at_i6 (hi : s.Inv) (hf : s.fg = some (.init .i6)) (b : Buf) : s.occ b = some 0 := by
  obtain ⟨-, hz⟩ := inv_initialising hi (by simp [State.inInit, hf])
  rw [hf] at hz
  obtain ⟨h1, h2, h3, h4, -⟩ := hz
  cases b
  · exact (occ_eq (b := .tx) h1 h2).trans (by simp)
  · exact (occ_eq (b := .rx) h3 h4).trans (by simp)

theorem emitIfBound_occ (s : State) (e : HookEvent) (b : Buf) : (s.emitIfBound e).occ b = s.occ b := by
  rcases emitIfBound_cases s e with hb | hb <;> rw [hb]
  cases e <;> rfl

namespace IrqApart

variable {test test' count count' : Nat → Nat → Prop} {z z' : Option IrqRun}

theorem markRaced (h : IrqApart test count z z') :
    IrqApart test' count' (z.map fun c => { c with raced := true }) (z'.map fun c => { c with raced := true }) := by
  cases h
  case idle => exact .idle
  all_goals exact .raced

/-- Of a callback that an INIT has overlapped nothing is asked. -/
theorem of_raced (h : IrqApart test count z z') (hz : ∀ c, z = some c → c.raced = true) : IrqApart test' count' z z' := by
  cases h
  case idle => exact .idle
  case raced => exact .raced
  all_goals exact absurd (hz _ rfl) nofun

end IrqApart

theorem irqMicro_txrdy {q : TxrdyPos} (hr : s.initRaced = false) : irqMicro (.txrdy q) s = txrdyMicro q s :=
  if_neg (by simp [hr])

theorem irqMicro_rxbyte {q : RxbytePos} (hr : s.initRaced = false) : irqMicro (.rxbyte q) s = rxbyteMicro q s :=
  if_neg (by simp [hr])

theorem raced_of_initialising (h : initialising s) (hc : s.irq = some c) : c.raced = true := by
  obtain ⟨h, -⟩ := h
  rwa [hc] at h

/-! ### Micro-steps of FG -/

section
variable (h : WidthApart s t)
include h

theorem bindMicro_widthApart (q : BindPos) (hn : s.inInit = false) :
    Alike WidthApart (fgMicro (.bind q) s) (fgMicro (.bind q) t) := by
  cases q
  case h1 m => exact .next ((h.setHooks m).setFg (.same rfl) (h.occ hn))
  case h2 => exact .next (h.returns (h.occ hn) _ _)

/-- INIT resets the counters one after the other, and at I6 both buffers are empty at either width. -/
theorem initMicro_widthApart {q : InitPos} (hs : s.Inv) (ht : t.Inv) (hf : s.fg = some (.init q)) (hf' : t.fg = some (.init q)) :
    Alike WidthApart (fgMicro (.init q) s) (fgMicro (.init q) t) := by
  have hzero : ∀ b, slotOf t.cfg b 0 = slotOf s.cfg b 0 := fun b => by rw [slotOf_zero, slotOf_zero]
  have hraced : s.inInit = true → ∀ c, s.irq = some c → c.raced = true :=
    fun hn _ => raced_of_initialising (inv_initialising hs hn)
  cases q
  case i1 =>
    exact .next ⟨((h.block.setWriteIndex (hzero .tx)).setIrq _ _).setFg _ _, nofun, .same rfl, h.irq.markRaced⟩
  case i2 =>
    exact .next ⟨(h.block.setReadIndex (hzero .tx)).setFg _ _, nofun, .same rfl,
      h.irq.of_raced (hraced (by simp [State.inInit, hf]))⟩
  case i3 =>
    exact .next ⟨(h.block.setWriteIndex (hzero .rx)).setFg _ _, nofun, .same rfl,
      h.irq.of_raced (hraced (by simp [State.inInit, hf]))⟩
  case i4 => exact .next ⟨(h.block.setReadIndex (hzero .rx)).setFg _ _, nofun, .same rfl, h.irq⟩
  case i5 => exact .next ⟨(h.setArmed false).block.setFg _ _, nofun, .same rfl, h.irq⟩
  case i6 =>
    refine .next ((h.emitIfBound _).setFg (.same rfl) fun b => ?_)
    rw [emitIfBound_occ, emitIfBound_occ, occ_at_i6 hs hf, occ_at_i6 ht hf']
  case i7 => exact .next (h.returns (h.occ (by simp [State.inInit, hf])) _ _)

theorem enqFull_widthApart (u : Byte) (ho : ∀ b, t.occ b = s.occ b) : WidthApart (enqFull u s) (enqFull u t) := by
  rw [enqFull, enqFull, h.block.policy]
  split
  · exact h.returns ho _ _
  · exact h.setFg (.same rfl) ho

/-- ENQ finds room at the one width where it does at the other, and pushes to the same slot. -/
theorem enqMicro_widthApart {q q' : EnqPos} (hs : s.Inv) (hn : s.inInit = false) (hf : s.fg = some (.enq q))
    (hf' : t.fg = some (.enq q')) : Alike WidthApart (fgMicro (.enq q) s) (fgMicro (.enq q') t) := by
  have ho := h.occ hn
  have hfg := h.fg
  rw [hf, hf'] at hfg
  cases hfg
  case e2 u r r' hr =>
    refine .orUninit_map hr fun w w' _ _ he => .next ?_
    rw [he, h.block.cap]
    exact rel_ite (enqFull_widthApart h u ho) (h.setFg (.same rfl) ho)
  case same hq =>
    cases q
    case e1 =>
      exact .orUninit_map h.block.tx.read fun r r' hr hr' _ =>
        .next (h.setFg (.e2 (sameTest_of_occ (b := .tx) (ho .tx) hr hr')) ho)
    case e2 => cases hq
    case e3 u =>
      refine .orUninit_map h.block.tx.write fun w w' _ _ he => .next ?_
      rw [he]
      have hm := h.memWrite .tx (slotOf s.cfg .tx w) u
      exact hm.setFg (.same rfl) (hm.occ hn)
    case e4 u =>
      refine .orUninit_map h.block.tx.write fun w w' hw hw' he => .next ?_
      have hb := (inv_and_settled_iff hn).mp ⟨hs, settled_of_written (b := .tx) hs hn hw⟩
      have htx := hb.tx
      rw [hf] at htx
      refine ⟨(h.block.setWriteIndex (h.block.slotOf_counterInc he)).setFg _ _, fun _ b => ?_, .same rfl, h.irq⟩
      cases b
      · exact occ_setWriteIndex h.block (ho .tx) hw hw' htx.occ_lt
      · exact ho .rx
    case e5 =>
      rw [fgMicro, fgMicro, enqMicro, enqMicro, readArmed, readArmed, h.block.txArmed]
      exact .orUninit fun a => .next (h.setFg (.same rfl) ho)
    case e6 a => exact .next ((h.armIf a).setFg (.same rfl) (by cases a <;> exact ho))
    case e7 a =>
      have hk := h.kickIf a
      exact .next (hk.setFg (.same rfl) (hk.occ (by rw [inInit_congr (t := kickIf a s) (s := s) (by simp), hn])))
    case e8 => exact .next (h.returns ho _ _)

/-- DEQ finds a byte at the one width where it does at the other, and takes it from the same slot. -/
theorem deqMicro_widthApart {q q' : DeqPos} (hs : s.Inv) (hn : s.inInit = false) (hf : s.fg = some (.deq q))
    (hf' : t.fg = some (.deq q')) : Alike WidthApart (fgMicro (.deq q) s) (fgMicro (.deq q') t) := by
  have ho := h.occ hn
  have hfg := h.fg
  rw [hf, hf'] at hfg
  cases hfg
  case q2 w w' hw =>
    refine .orUninit_map hw fun r r' _ _ he => .next ?_
    rw [he]
    exact rel_ite (h.returns ho _ _) (h.setFg (.same rfl) ho)
  case same hq =>
    cases q
    case q1 =>
      exact .orUninit_map h.block.rx.write fun w w' hw hw' _ =>
        .next (h.setFg (.q2 (sameCount_of_occ (b := .rx) (ho .rx) hw hw')) ho)
    case q2 => cases hq
    case q3 =>
      refine .orUninit_map h.block.rx.read fun r r' _ _ he => ?_
      rw [he, h.block.memRead]
      exact .orUninit fun v => .next (h.setFg (.same rfl) ho)
    case q4 u =>
      refine .orUninit_map h.block.rx.read fun r r' hr hr' he => .next ?_
      have hb := (inv_and_settled_iff hn).mp ⟨hs, settled_of_read (b := .rx) hs hn hr⟩
      have hrx := hb.rx
      rw [hf] at hrx
      refine ⟨(h.block.setReadIndex (h.block.slotOf_counterInc he)).setFg _ _, fun _ b => ?_, .same rfl, h.irq⟩
      cases b
      · exact ho .tx
      · exact occ_setReadIndex (ho .rx) hr hr' hrx.occ_pos
    case q5 => exact .next (h.returns ho _ _)

/-- RXCNT counts the same. -/
theorem rxcntMicro_widthApart {q q' : RxcntPos} (hn : s.inInit = false) (hf : s.fg = some (.rxcnt q))
    (hf' : t.fg = some (.rxcnt q')) : Alike WidthApart (fgMicro (.rxcnt q) s) (fgMicro (.rxcnt q') t) := by
  have ho := h.occ hn
  have hfg := h.fg
  rw [hf, hf'] at hfg
  cases hfg
  case n2 w w' hw =>
    refine .orUninit_map hw fun r r' _ _ he => .next ?_
    rw [he]
    exact h.returns ho _ _
  case same hq =>
    cases q
    case n1 =>
      exact .orUninit_map h.block.rx.write fun w w' hw hw' _ =>
        .next (h.setFg (.n2 (sameCount_of_occ (b := .rx) (ho .rx) hw hw')) ho)
    case n2 => cases hq

theorem fgMicro_widthApart {q q' : FgPos} (hs : s.Inv) (ht : t.Inv) (hf : s.fg = some q) (hf' : t.fg = some q') :
    Alike WidthApart (fgMicro q s) (fgMicro q' t) := by
  have hfg := h.fg
  rw [hf, hf'] at hfg
  by_cases hq : q.op = .init
  · cases q <;> simp only [FgPos.op, reduceCtorEq] at hq
    cases hfg
    exact initMicro_widthApart h hs ht hf hf'
  · have hn := inInit_of_op hf hq
    cases hfg
    case e2 => exact enqMicro_widthApart h hs hn hf hf'
    case q2 => exact deqMicro_widthApart h hs hn hf hf'
    case n2 => exact rxcntMicro_widthApart h hn hf hf'
    case same =>
      cases q
      case init => exact absurd rfl hq
      case bind => exact bindMicro_widthApart h _ hn
      case enq => exact enqMicro_widthApart h hs hn hf hf'
      case deq => exact deqMicro_widthApart h hs hn hf hf'
      case rxcnt => exact rxcntMicro_widthApart h hn hf hf'

/-! ### Micro-steps of a callback -/

theorem WidthApart.setIrqPos {q q' : IrqPos} (hc : s.irq = some c) (hc' : t.irq = some c')
    (hz : IrqApart (SameTest s.cfg t.cfg s.rx t.rx) (SameCount s.cfg t.cfg s.tx t.tx) (some { c with pos := q })
      (some { c' with pos := q' })) : WidthApart (s.setIrqPos q) (t.setIrqPos q') := by
  rw [setIrqPos_of hc, setIrqPos_of hc']
  exact h.setIrq hz

/-- TXRDY finds a byte at the one width where it does at the other, and takes it from the same slot. -/
theorem txrdyMicro_widthApart {q q' : TxrdyPos} (hs : s.Inv) (hr : s.initRaced = false) (hr' : t.initRaced = false)
    (hc : s.irq = some ⟨.txrdy q, false⟩) (hc' : t.irq = some ⟨.txrdy q', false⟩) :
    Alike WidthApart (irqMicro (.txrdy q) s) (irqMicro (.txrdy q') t) := by
  rw [irqMicro_txrdy hr, irqMicro_txrdy hr']
  obtain ⟨hn, -⟩ := not_raced hr hc
  have ho := h.occ hn
  have hirq := h.irq
  rw [hc, hc'] at hirq
  cases hirq
  case t3 w w' hw =>
    refine .orUninit_map hw fun r r' _ _ he => .next ?_
    rw [he]
    exact h.setIrqPos hc hc' (.same (by split <;> rfl))
  case t8 w w' hw =>
    refine .orUninit_map hw fun r r' _ _ he => .next ?_
    rw [he]
    exact (h.disarmIf _).endCallback
  case same hq =>
    cases q
    case t1 =>
      simp only [txrdyMicro, h.block.bound]
      split
      · exact .next (h.setIrqPos hc hc' (.same rfl))
      · exact .fault _
    case t2 =>
      exact .orUninit_map h.block.tx.write fun w w' hw hw' _ =>
        .next (h.setIrqPos hc hc' (.t3 (sameCount_of_occ (b := .tx) (ho .tx) hw hw')))
    case t3 => cases hq
    case t4 =>
      refine .orUninit_map h.block.tx.read fun r r' _ _ he => ?_
      rw [he, h.block.memRead]
      exact .orUninit fun v => .next (h.setIrqPos hc hc' (.same rfl))
    case t5 u => exact .next ((h.emit (.sendByte u)).setIrqPos hc hc' (.same rfl))
    case t6 u =>
      refine .orUninit_map h.block.tx.read fun r r' hr hr' he => .next ?_
      have hb := (inv_and_settled_iff hn).mp ⟨hs, settled_of_read (b := .tx) hs hn hr⟩
      have htx := hb.tx
      rw [hc] at htx
      rw [setIrqPos_of (s := s.setReadIndex .tx _) hc, setIrqPos_of (s := t.setReadIndex .tx _) hc']
      refine ⟨(h.block.setReadIndex (h.block.slotOf_counterInc he)).setIrq _ _, fun _ b => ?_, h.fg, .same rfl⟩
      cases b
      · exact occ_setReadIndex (ho .tx) hr hr' htx.occ_pos
      · exact ho .rx
    case t7 =>
      exact .orUninit_map h.block.tx.write fun w w' hw hw' _ =>
        .next (h.setIrqPos hc hc' (.t8 (sameCount_of_occ (b := .tx) (ho .tx) hw hw')))
    case t8 => cases hq
    case t9 => exact .next (h.emitIfBound _).endCallback

/-- RXBYTE finds room at the one width where it does at the other, and pushes to the same slot. -/
theorem rxbyteMicro_widthApart {q q' : RxbytePos} (hs : s.Inv) (hr : s.initRaced = false) (hr' : t.initRaced = false)
    (hc : s.irq = some ⟨.rxbyte q, false⟩) (hc' : t.irq = some ⟨.rxbyte q', false⟩) :
    Alike WidthApart (irqMicro (.rxbyte q) s) (irqMicro (.rxbyte q') t) := by
  rw [irqMicro_rxbyte hr, irqMicro_rxbyte hr']
  obtain ⟨hn, -⟩ := not_raced hr hc
  have ho := h.occ hn
  have hirq := h.irq
  rw [hc, hc'] at hirq
  cases hirq
  case b2 u r r' hr =>
    refine .orUninit_map hr fun w w' _ _ he => .next ?_
    rw [he, h.block.cap]
    exact rel_ite h.endCallback (h.setIrqPos hc hc' (.same rfl))
  case same hq =>
    cases q
    case b1 =>
      exact .orUninit_map h.block.rx.read fun r r' hr hr' _ =>
        .next (h.setIrqPos hc hc' (.b2 (sameTest_of_occ (b := .rx) (ho .rx) hr hr')))
    case b2 => cases hq
    case b3 u =>
      refine .orUninit_map h.block.rx.write fun w w' _ _ he => .next ?_
      rw [he]
      exact (h.memWrite .rx _ u).setIrqPos hc hc' (.same rfl)
    case b4 u =>
      refine .orUninit_map h.block.rx.write fun w w' hw hw' he => .next ?_
      have hb := (inv_and_settled_iff hn).mp ⟨hs, settled_of_written (b := .rx) hs hn hw⟩
      have hrx := hb.rx
      rw [hc] at hrx
      refine ⟨(h.block.setWriteIndex (h.block.slotOf_counterInc he)).setIrq _ _, fun _ b => ?_, h.fg, .idle⟩
      cases b
      · exact ho .tx
      · exact occ_setWriteIndex h.block (ho .rx) hw hw' hrx.occ_lt

/-! ### What is read of the position -/

theorem inInit_widthApart : t.inInit = s.inInit := by
  have hfg := h.fg
  unfold State.inInit
  generalize s.fg = f, t.fg = f' at hfg
  cases hfg <;> rfl

theorem heldAtE1_widthApart : t.heldAtE1 = s.heldAtE1 := by
  have hfg := h.fg
  unfold State.heldAtE1
  generalize s.fg = f, t.fg = f' at hfg
  cases hfg <;> rfl

theorem inFlight_widthApart (p : Port) : t.inFlight p = s.inFlight p := by
  cases p
  · have hfg := h.fg
    rw [State.inFlight_fg, State.inFlight_fg]
    generalize s.fg = f, t.fg = f' at hfg
    cases hfg <;> rfl
  · have hirq := h.irq
    rw [State.inFlight_irq, State.inFlight_irq]
    generalize s.irq = z, t.irq = z' at hirq
    cases hirq <;> rfl

theorem raced_widthApart (hc : s.irq = some c) (hc' : t.irq = some c') : c'.raced = c.raced := by
  have hirq := h.irq
  rw [hc, hc'] at hirq
  cases hirq <;> rfl

theorem initRaced_widthApart (hc : s.irq = some c) (hc' : t.irq = some c') : t.initRaced = s.initRaced := by
  simp only [State.initRaced, inInit_widthApart h, hc, hc', raced_widthApart h hc hc']

theorem inBounds_widthApart : t.inBounds = s.inBounds := by
  rw [State.inBounds, State.inBounds, inInit_widthApart h]
  cases hn : s.inInit
  · simp only [State.within, h.occ hn, h.block.cap]
  · rfl

/-! ### Every micro-step -/

theorem irqMicro_widthApart (hs : s.Inv) (hc : s.irq = some c) (hc' : t.irq = some c') :
    Alike WidthApart (irqMicro c.pos s) (irqMicro c'.pos t) := by
  have hr' := initRaced_widthApart h hc hc'
  cases hr : s.initRaced
  case true =>
    rw [irqMicro_raced hr, irqMicro_raced (hr'.trans hr)]
    exact .fault _
  case false =>
    obtain ⟨-, hm⟩ := not_raced hr hc
    have hr' := hr'.trans hr
    have hirq := h.irq
    rw [hc, hc'] at hirq
    cases hirq
    case raced => cases hm
    case t3 => exact txrdyMicro_widthApart h hs hr hr' hc hc'
    case t8 => exact txrdyMicro_widthApart h hs hr hr' hc hc'
    case b2 => exact rxbyteMicro_widthApart h hs hr hr' hc hc'
    case same q _ =>
      cases q
      case txrdy => exact txrdyMicro_widthApart h hs hr hr' hc hc'
      case rxbyte => exact rxbyteMicro_widthApart h hs hr hr' hc hc'

theorem microStep_widthApart (hs : s.Inv) (ht : t.Inv) (p : Port) : Alike WidthApart (microStep p s) (microStep p t) := by
  refine .ifInBounds (inBounds_widthApart h) ?_
  have hfl := inFlight_widthApart h p
  cases p
  case fg =>
    cases hf : s.fg <;> cases hf' : t.fg <;> simp only [State.inFlight_fg, hf, hf', Option.isSome, reduceCtorEq] at hfl ⊢
    · exact .next h
    · exact fgMicro_widthApart h hs ht hf hf'
  case irq =>
    cases hc : s.irq <;> cases hc' : t.irq <;> simp only [State.inFlight_irq, hc, hc', Option.isSome, reduceCtorEq] at hfl ⊢
    · exact .next h
    · exact irqMicro_widthApart h hs hc hc'

end

/-! ### Every step -/

/-- The states are one another at another width, and both are ones that a run may reach. -/
def Paired (s t : State) : Prop := s.Inv ∧ t.Inv ∧ WidthApart s t

/-- Outside an INIT an operation may begin in an idle context. -/
theorem inv_startAt_outside (hf : s.inFlight i.port = false) (hn : s.inInit = false) (hi : s.Inv) : (startAt i s).Inv := by
  cases hp : i.port
  case fg => exact inv_startAt_fg hp (by simpa [hp] using hf) hi
  case irq =>
    have hirq : s.irq = none := by simpa [hp] using hf
    refine inv_begin hi hn (by simp) (by simp) (by simp) (by simp) ?_ ?_ ?_ ?_
    · cases i <;> cases hp <;> exact hn
    · rintro ⟨h1, h2, h3, h4, h5, hq, -⟩
      cases i <;> cases hp <;> exact ⟨h1, h2, h3, h4, h5, hq, trivial⟩
    · cases i <;> cases hp <;> exact ⟨rfl, rfl⟩
    · rw [hirq]
      cases i <;> cases hp <;> exact ⟨rfl, rfl⟩

theorem WidthApart.startAt (h : WidthApart s t) (hn : s.inInit = false) (i : Instr) :
    WidthApart (startAt i s) (startAt i t) := by
  cases i
  case txrdy | rxbyte => exact h.setIrq (.same rfl)
  all_goals exact h.setFg (.same rfl) (h.occ hn)

namespace Paired

variable (h : Paired s t)
include h

theorem congr {u v : State} (hu : s.Inv → u.Inv) (hv : t.Inv → v.Inv) (hw : WidthApart s t → WidthApart u v) :
    Paired u v := by
  obtain ⟨hs, ht, hst⟩ := h
  exact ⟨hu hs, hv ht, hw hst⟩

theorem dropTurn : Paired s.dropTurn t.dropTurn :=
  h.congr (Inv_congr (by simp) (by simp) (by simp) (by simp) (by simp) (by simp))
    (Inv_congr (by simp) (by simp) (by simp) (by simp) (by simp) (by simp)) WidthApart.dropTurn

theorem setWords (p : Port) (ws : List Word) : Paired (s.setWords p ws) (t.setWords p ws) := by
  cases p <;> exact h.congr (Inv_congr rfl rfl rfl rfl rfl rfl) (Inv_congr rfl rfl rfl rfl rfl rfl) (·.setWords _ ws)

theorem respond (st : Status) (n : Nat) : Paired (s.respond st n) (t.respond st n) :=
  h.congr (Inv_congr rfl rfl rfl rfl rfl rfl) (Inv_congr rfl rfl rfl rfl rfl rfl) (·.respond st n)

theorem startAt (hf : s.inFlight i.port = false) (hn : s.inInit = false) : Paired (startAt i s) (startAt i t) := by
  obtain ⟨hs, ht, hst⟩ := h
  exact ⟨inv_startAt_outside hf hn hs,
    inv_startAt_outside ((inFlight_widthApart hst _).trans hf) ((inInit_widthApart hst).trans hn) ht, hst.startAt hn i⟩

theorem microStep (p : Port) : Alike Paired (microStep p s) (microStep p t) := by
  obtain ⟨hs, ht, hst⟩ := h
  exact (microStep_widthApart hst hs ht p).imp_next fun u v hu hv huv => ⟨inv_microStep hs hu, inv_microStep ht hv, huv⟩

theorem runMicro (p : Port) (n : Nat) : Alike Paired (runMicro p n s) (runMicro p n t) :=
  runMicro_alike (fun _ _ h => inFlight_widthApart h.2.2 p) (fun _ _ h => heldAtE1_widthApart h.2.2)
    (fun _ _ h _ => h.microStep p) n h

theorem goOn (p : Port) (g : Grain) : Alike Paired (goOn p g s) (goOn p g t) := by
  cases g
  · exact h.microStep p
  · exact h.runMicro p _

end Paired

/-- A callback accepted inside an INIT is the race (60_exceptions.md R153 F3). -/
theorem accept_callback_raced {g : Grain} (hp : i.port = .irq) (hn : s.inInit = true) (hi : s.irq = none) :
    accept g i s = .fault .initRace := by
  cases g
  case whole => exact exec_callback_raced hp hn hi
  case micro =>
    obtain ⟨q, hq⟩ := startAt_callback (s := s) hp
    have hn' : (s.enterCallback q).inInit = true := hn
    rw [accept, issueMicro_of_idle (by simp [hp, hi]), hq, hp]
    exact microStep_irq_raced (inBounds_of_inInit hn') rfl (initRaced_of_inInit hn')

theorem accept_of_idle {g : Grain} (hf : s.inFlight i.port = false) : accept g i s = goOn i.port g (startAt i s) := by
  cases g
  · exact issueMicro_of_idle hf
  · exact exec_of_idle hf

/-- An operation accepted in an idle context begins a pair, or is the race at either width. -/
theorem Paired.accept (h : Paired s t) (hf : s.inFlight i.port = false) (g : Grain) :
    Alike Paired (accept g i s) (accept g i t) := by
  have hst := h.2.2
  have hf' : t.inFlight i.port = false := (inFlight_widthApart hst _).trans hf
  by_cases hn : s.inInit = false
  · rw [accept_of_idle hf, accept_of_idle hf']
    exact (h.startAt hf hn).goOn _ g
  · have hn : s.inInit = true := by simpa using hn
    cases hp : i.port
    case fg =>
      have hfg : s.fg = none := by simpa [hp] using hf
      simp [State.inInit, hfg] at hn
    case irq =>
      rw [accept_callback_raced hp hn (by simpa [hp] using hf),
        accept_callback_raced hp ((inInit_widthApart hst).trans hn) (by simpa [hp] using hf')]
      exact .fault _

theorem BlockApart.words (h : BlockApart s t) (p : Port) : t.words p = s.words p := by
  obtain ⟨x, tx, rx, fg, irq, rfl⟩ := h.same
  cases p <;> rfl

theorem BlockApart.turnOf (h : BlockApart s t) : t.turnOf = s.turnOf := by
  obtain ⟨x, tx, rx, fg, irq, rfl⟩ := h.same
  rfl

theorem BlockApart.sched (h : BlockApart s t) : t.cfg.sched = s.cfg.sched := by
  obtain ⟨x, tx, rx, fg, irq, rfl⟩ := h.same
  rfl

theorem mover_widthApart (h : WidthApart s t) (z : Turn) : t.mover z = s.mover z := by
  have hfl := inFlight_widthApart h .irq
  simp only [State.inFlight_irq] at hfl
  cases hs : s.irq <;> cases ht : t.irq <;> simp_all [State.mover, h.block.sched]

theorem Paired.takeWord (h : Paired s t) (hf : s.inFlight p = false) (g : Grain) :
    Alike Paired (takeWord p g s) (takeWord p g t) := by
  rw [Machine.takeWord, Machine.takeWord, h.2.2.block.words]
  split
  · exact .next h
  · next w ws _ =>
    have hw := h.setWords p ws
    split
    · cases p
      · exact .next (hw.respond _ _)
      · exact .refused _
    · next j hd =>
      obtain rfl := port_of_decodeOn hd
      exact hw.accept (by simpa using hf) g

/-- A pair steps as a pair. -/
theorem Paired.step (h : Paired s t) : Alike Paired (step s) (step t) := by
  obtain ⟨-, -, hst⟩ := id h
  refine .ifInBounds (inBounds_widthApart hst) ?_
  have h' := h.dropTurn
  rw [hst.block.turnOf, mover_widthApart hst, turn, turn, inFlight_widthApart h'.2.2]
  split
  · exact h'.goOn _ _
  · next hf => exact h'.takeWord (by simpa using hf) _

/-- A constructed state begins as it would at another width (70_reset_and_hazards.md R180). -/
theorem paired_constructed (c : Config) (x : Nat) (fw iw : List Word) (ts : List Turn) :
    Paired { State.constructed c with fgIn := fw, irqIn := iw, turns := ts }
      { State.constructed { c with extra := x } with fgIn := fw, irqIn := iw, turns := ts } :=
  ⟨Inv_congr rfl rfl rfl rfl rfl rfl (inv_constructed c), Inv_congr rfl rfl rfl rfl rfl rfl (inv_constructed _),
    ⟨⟨x, _, _, _, _, rfl⟩, ⟨rfl, rfl, rfl⟩, ⟨rfl, rfl, rfl⟩⟩, fun _ b => by cases b <;> rfl, .idle, .idle⟩

end Sys2Proof.Machine

open Sys2Proof Sys2Proof.Machine

/-- Settles O53: a machine and the one of another width run side by side, and what they have answered and emitted is no counter's value. -/
theorem widthUnobservable : Obligations.WidthUnobservable := by
  unfold Obligations.WidthUnobservable
  intro c x fw iw ts n out
  have key : ∀ u v, Alike Paired u v → out u = out v := by
    intro u v h
    cases h with
    | next h =>
      obtain ⟨-, -, hst⟩ := h
      obtain ⟨x, tx, rx, fg, irq, rfl⟩ := hst.block.same
      rfl
    | fault e => rfl
    | refused e => rfl
  exact key _ _ (.run (fun _ _ => Paired.step) n (paired_constructed c x fw iw ts))

end

section
/-! SUPPORT. Before the first INIT (70_reset_and_hazards.md R183; 10_state.md R33): the first counter an operation reads is unwritten. -/

namespace Sys2Proof.Machine

variable {s : State} {i : Instr} {q : FgPos} {e : Fault}

theorem orUninit_of_none {α : Type} {a : Option α} {f : α → Result} (h : a = none) : orUninit a f = .fault .uninit := by
  rw [h, orUninit_none]

/-- With the write counters unwritten there is no occupancy to be out of bounds (10_state.md R23, R33). -/
theorem inBounds_of_unwritten (htx : s.tx.writeIndex = none) (hrx : s.rx.writeIndex = none) : s.inBounds = true :=
  inBounds_of_within (by simp [State.within, State.occ, State.ring, htx]) (by simp [State.within, State.occ, State.ring, hrx])

/-- An operation of FG faults where its first labelled micro-step does. -/
theorem exec_fg_fault (hb : s.inBounds = true) (hf : s.fg = none) (hp : i.port = .fg) (hq : (startAt i s).fg = some q)
    (h : fgMicro q (startAt i s) = .fault e) : exec i s = .fault e := by
  have hidle : s.inFlight i.port = false := by simp [hp, hf]
  refine exec_fault hidle ?_
  rw [hp]
  exact (microStep_fg ((startAt_inBounds hidle).trans hb) hq).trans h

section
variable (hb : s.inBounds = true) (hi : s.irq = none) (hn : s.inInit = false)
include hb hi hn

/-- RXBYTE faults at B1. -/
theorem exec_rxbyte_unwritten (v : Byte) (hr : s.rx.readIndex = none) : exec (.rxbyte v) s = .fault .uninit := by
  have hidle : s.inFlight (Instr.rxbyte v).port = false := by simp [Instr.port, hi]
  refine exec_fault hidle ?_
  refine (microStep_irq ((startAt_inBounds hidle).trans hb) rfl).trans ?_
  exact (irqMicro_rxbyte (enterCallback_initRaced hn)).trans (orUninit_of_none hr)

/-- TXRDY passes T1 if `send_byte` is bound, and faults at T2. -/
theorem exec_txrdy_unwritten (hs : s.hooks.getLsbD 0 = true) (hw : s.tx.writeIndex = none) :
    exec .txrdy s = .fault .uninit := by
  have hin := within_of_not_inInit hb hn
  rw [exec_of_idle (by simp [Instr.port, hi])]
  refine (runMicro_irq_onward (n := 7) hin (txrdy_t1_next.mpr ⟨enterCallback_initRaced hn, hs, rfl⟩)).trans ?_
  refine runMicro_fault (s := s.enterCallback (.txrdy .t2)) rfl ?_
  refine (microStep_irq (s := s.enterCallback (.txrdy .t2)) (inBounds_of_within (hin .tx) (hin .rx)) rfl).trans ?_
  exact (irqMicro_txrdy (enterCallback_initRaced hn)).trans (orUninit_of_none hw)

end

end Sys2Proof.Machine

open Sys2Proof Sys2Proof.Machine

/-- Settles O26: each operation's first read of a counter finds it unwritten; T1 comes before TXRDY's; INIT and BIND read none. -/
theorem beforeInit : Obligations.BeforeInit := by
  unfold Obligations.BeforeInit
  intro s hf hi htw htr hrw hrr
  have hb := inBounds_of_unwritten htw hrw
  have hn : s.inInit = false := by simp [State.inInit, hf]
  refine ⟨fun b => ?_, ?_, ?_, fun b => exec_rxbyte_unwritten hb hi hn b hrr, ?_, ⟨_, exec_init hb hf⟩, fun m => ⟨_, exec_bind m hb hf⟩⟩
  · exact exec_fg_fault hb hf rfl rfl (orUninit_of_none htr)
  · exact exec_fg_fault hb hf rfl rfl (orUninit_of_none hrw)
  · exact exec_fg_fault hb hf rfl rfl (orUninit_of_none hrw)
  · cases hs : s.hooks.getLsbD 0
    · exact unboundSendFaults s hb hi hn hs
    · exact exec_txrdy_unwritten hb hi hn hs htw

end

section
/-! SUPPORT. What a stale copy of a counter shows (70_reset_and_hazards.md R192): the invariant says it of each copy in flight. -/

namespace Sys2Proof.Machine

variable {s : State} {b : Buf} {w r n : Nat} {x : PushStage} {y : PopStage}

/-- A producer's copy of the consumer's index over-estimates the occupancy. -/
theorem RingOk.occ_le_test (h : RingOk s b (.copied r) y) (hw : (s.ring b).writeIndex = some w) (ho : s.occ b = some n) :
    n ≤ counterSub s.cfg w r := by
  obtain ⟨-, w', r', hw', hr, -, ⟨-, hle, -⟩, -⟩ := h
  obtain rfl : w' = w := Option.some.inj (hw'.symm.trans hw)
  rwa [← Option.some.inj ((occ_eq hw hr).symm.trans ho)]

/-- A consumer's copy of the producer's index under-estimates the occupancy. -/
theorem RingOk.count_le_occ (h : RingOk s b x (.copied w)) (hr : (s.ring b).readIndex = some r) (ho : s.occ b = some n) :
    counterSub s.cfg w r ≤ n := by
  obtain ⟨-, w', r', hw, hr', -, -, ⟨-, hle⟩⟩ := h
  obtain rfl : r' = r := Option.some.inj (hr'.symm.trans hr)
  rwa [← Option.some.inj ((occ_eq hw hr).symm.trans ho)]

end Sys2Proof.Machine

open Sys2Proof Sys2Proof.Machine

/-- Settles O38: the invariant, read at each position that holds a copy. -/
theorem staleReadsErrOneWay : Obligations.StaleReadsErrOneWay := by
  unfold Obligations.StaleReadsErrOneWay
  intro s hi hn ha
  obtain ⟨htx, hrx, -⟩ := (inv_and_settled_iff hn).mp ⟨hi, Inv_settled hi hn ha⟩
  refine ⟨fun b r w n hf hw ho => ?_, fun w r n hf hr ho => ?_, fun w r n hf hr ho => ?_, fun w r n hc hr ho => ?_,
    fun w r n hc hr ho => ?_, fun b r w n hc hw ho => ?_⟩
  · rw [hf] at htx
    exact htx.occ_le_test hw ho
  · rw [hf] at hrx
    exact hrx.count_le_occ hr ho
  · rw [hf] at hrx
    exact hrx.count_le_occ hr ho
  · rw [hc] at htx
    exact htx.count_le_occ hr ho
  · rw [hc] at htx
    exact htx.count_le_occ hr ho
  · rw [hc] at hrx
    exact hrx.occ_le_test hw ho

end

section
/-! SUPPORT. With `tx_armed` true ENQ does not arm (70_reset_and_hazards.md R185; 41_foreground.md R113). -/

namespace Sys2Proof.Machine

variable {s t : State} {n : Nat} {v : Byte}

theorem enqFull_hookOut : (enqFull v s).hookOut = s.hookOut := by
  unfold enqFull
  split <;> rfl

/-- An ENQ that finds `tx_armed` true queues its byte or finds the buffer full, and calls no hook. -/
theorem exec_enq_armed {en : Bool} (hx : s.triple = some ⟨true, en, n⟩) (h : exec (.enq v) s = .next t) :
    t.hookOut = s.hookOut ∧ ∃ m, t.triple = some ⟨true, en, m⟩ := by
  obtain ⟨hidle, ⟨u, hu⟩, -⟩ := exec_first h
  have hb : s.inBounds = true := (startAt_inBounds hidle).symm.trans (microStep_eq_next.mp hu).1
  have hf : s.fg = none := by simpa [Instr.port] using hidle
  obtain ⟨ha, hen, ho⟩ := triple_eq_some_iff.mp hx
  obtain ⟨w, r, hw, hr⟩ : ∃ w r, s.tx.writeIndex = some w ∧ s.tx.readIndex = some r := by
    cases hw : s.tx.writeIndex <;> cases hr : s.tx.readIndex <;> simp_all [State.occ, State.ring]
  by_cases hfull : counterSub s.cfg w r = s.cfg.cap .tx
  · rw [exec_enq_full hb hf hw hr hfull] at h
    cases h
    exact ⟨enqFull_hookOut, n, enqFull_triple.trans hx⟩
  · rw [exec_enq_room hb hf hw hr ha hfull] at h
    cases h
    exact ⟨by simp, counterSub s.cfg (counterInc s.cfg w) r,
      triple_eq_some_iff.mpr ⟨rfl, by simpa using hen, occ_eq (b := .tx) rfl hr⟩⟩

end Sys2Proof.Machine

open Sys2Proof Sys2Proof.Machine

/-- Settles O59: ENQ finds `tx_armed` true, and the other operations write neither the triple nor the event history. -/
theorem lostArmPersists : Obligations.LostArmPersists := by
  unfold Obligations.LostArmPersists
  intro i s t n hinit htxrdy hx h
  by_cases he : opOf i = .enq
  · cases i <;> cases he
    exact exec_enq_armed hx h
  · obtain ⟨hfr, -⟩ := exec_frame h
    have hi := opOf_ne_init hinit
    have ht := opOf_ne_txrdy htxrdy
    exact ⟨hfr.hookOut hi he ht, n, (hfr.triple hi he ht).trans hx⟩

end

section
/-! SUPPORT. Runs of given turns (00_scope.md R7): what a turn does to the state whatever turns come after it; and the two runs that lose the arm
(70_reset_and_hazards.md R185, R194). -/

namespace Sys2Proof.Machine

variable {s t u : State} {p : Port} {i : Instr} {ws : List Word} {v : Byte}

/-! ### One turn -/

theorem withTurns_inFlight (s : State) (p : Port) (ts : List Turn) : (s.withTurns ts).inFlight p = s.inFlight p := by
  cases p <;> rfl

theorem withTurns_words (s : State) (p : Port) (ts : List Turn) : (s.withTurns ts).words p = s.words p := by
  cases p <;> rfl

/-- An operation run whole reads the schedule no more than its micro-steps do. -/
theorem runMicro_withTurns {n : Nat} {ts : List Turn} (h : runMicro p n s = .next t) :
    runMicro p n (s.withTurns ts) = .next (t.withTurns ts) := by
  induction n generalizing s with
  | zero => cases h; rfl
  | succ n ih =>
    cases hf : s.inFlight p
    case false =>
      obtain rfl := Host.Outcome.next.inj ((runMicro_idle hf).symm.trans h)
      exact runMicro_idle ((withTurns_inFlight s p ts).trans hf)
    case true =>
      simp only [runMicro, hf, if_true] at h
      obtain ⟨u, hu, h⟩ := andThen_eq_next.mp h
      rw [runMicro_succ ((withTurns_inFlight s p ts).trans hf) (microStep_withTurns hu),
        show (u.withTurns ts).heldAtE1 = u.heldAtE1 from rfl]
      split at h
      · next hh =>
        cases h
        exact if_pos hh
      · next hh => exact (if_neg hh).trans (ih h)

/-- A turn leads from one state to the other, whatever the turns after it. -/
def TurnTo (x : Turn) (s t : State) : Prop := ∀ ts, step (s.withTurns (x :: ts)) = .next (t.withTurns ts)

theorem TurnTo.inv {x : Turn} (hi : s.Inv) (h : TurnTo x s t) : t.Inv :=
  Inv_congr (s := t.withTurns []) rfl rfl rfl rfl rfl rfl
    (invKept (s.withTurns [x]) _ (Inv_congr rfl rfl rfl rfl rfl rfl hi) (h []))

/-- Turns one after the other lead from one state to the other, whatever the turns after them. -/
inductive TurnsTo : List Turn → State → State → Prop
  | nil {s : State} : TurnsTo [] s s
  | cons {x : Turn} {xs : List Turn} {s u t : State} (h : TurnTo x s u) (h' : TurnsTo xs u t) : TurnsTo (x :: xs) s t

namespace TurnsTo

variable {xs ys : List Turn}

theorem append (h : TurnsTo xs s u) (h' : TurnsTo ys u t) : TurnsTo (xs ++ ys) s t := by
  induction h with
  | nil => exact h'
  | cons hx _ ih => exact .cons hx (ih h')

theorem inv (h : TurnsTo xs s t) (hi : s.Inv) : t.Inv := by
  induction h with
  | nil => exact hi
  | cons hx _ ih => exact ih (hx.inv hi)

/-- They are the run of as many steps. -/
theorem run {ts : List Turn} (h : TurnsTo xs s t) (hs : s.turns = xs ++ ts) :
    Host.Core.run Sys2Proof.core xs.length s = .next (t.withTurns ts) := by
  rw [show s = s.withTurns (xs ++ ts) by rw [← hs]; rfl]
  clear hs
  induction h with
  | nil => rfl
  | cons hx _ ih => exact (core_run_succ (hx _)).trans ih

end TurnsTo

section
variable (hm : ∀ g, s.mover ⟨p, g⟩ = p)
include hm

theorem turnTo_micro (hf : s.inFlight p = true) (h : microStep p s = .next t) : TurnTo ⟨p, .micro⟩ s t := fun ts =>
  (step_micro_inFlight (s := s.withTurns (⟨p, .micro⟩ :: ts)) (hm .micro) ((withTurns_inFlight s p _).trans hf) rfl).trans
    (microStep_withTurns (s := s) (ts := ts) h)

theorem turnTo_whole (hf : s.inFlight p = true) (h : runMicro p maxMicro s = .next t) : TurnTo ⟨p, .whole⟩ s t := fun ts =>
  (step_whole_inFlight (s := s.withTurns (⟨p, .whole⟩ :: ts)) (hm .whole) ((withTurns_inFlight s p _).trans hf) rfl).trans
    (runMicro_withTurns (s := s) (ts := ts) h)

end

section
variable (hm : ∀ g, s.mover ⟨i.port, g⟩ = i.port) (hf : s.inFlight i.port = false) (hw : s.words i.port = encode i :: ws)
include hm hf hw

theorem turnTo_micro_word (h : microStep i.port (startAt i (s.setWords i.port ws)) = .next t) :
    TurnTo ⟨i.port, .micro⟩ s t := fun ts => by
  rw [step_micro_decoded (s := s.withTurns (⟨i.port, .micro⟩ :: ts)) (hm .micro) ((withTurns_inFlight s _ _).trans hf)
    ((withTurns_words s _ _).trans hw) (decodeOn_encode i) rfl]
  refine Eq.trans ?_ (microStep_withTurns h)
  rw [← startAt_withTurns, ← setWords_withTurns]
  rfl

theorem turnTo_whole_word (h : exec i (s.setWords i.port ws) = .next t) : TurnTo ⟨i.port, .whole⟩ s t := fun ts => by
  rw [step_whole_decoded (s := s.withTurns (⟨i.port, .whole⟩ :: ts)) (hm .whole) ((withTurns_inFlight s _ _).trans hf)
    ((withTurns_words s _ _).trans hw) (decodeOn_encode i) rfl]
  obtain ⟨-, -, h⟩ := exec_first h
  rw [exec_of_idle (by simpa using (withTurns_inFlight s _ _).trans hf)]
  refine Eq.trans ?_ (runMicro_withTurns h)
  rw [← startAt_withTurns, ← setWords_withTurns]
  rfl

end

/-! ### ENQ and TXRDY from DRAINED -/

/-- An agent with nothing of IRQ's in flight moves on its own turn, whatever SCHED (00_scope.md R7). -/
theorem mover_of_irq_idle (hirq : s.irq = none) (p : Port) (g : Grain) : s.mover ⟨p, g⟩ = p := by
  cases p
  · exact mover_fg (.inl hirq)
  · exact mover_irq

/-- FG's labelled micro-step, in the turn for it. -/
theorem turnTo_fgMicro {q : FgPos} (hi : s.Inv) (hirq : s.irq = none) (hf : s.fg = some q) (h : fgMicro q s = .next t) :
    TurnTo ⟨.fg, .micro⟩ s t :=
  turnTo_micro (mover_of_irq_idle hirq .fg) (by simp [hf]) ((microStep_fg (Inv_inBounds hi) hf).trans h)

/-- After ENQ's E4: the byte is stored and pushed, and FG is at E5. -/
def State.pushed (s : State) (b : Byte) (w : Nat) (ws : List Word) : State :=
  (((s.setWords .fg ws).memWrite .tx (slotOf s.cfg .tx w) b).setWriteIndex .tx (counterInc s.cfg w)).setFg (some (.enq .e5))

/-- ENQ's first four micro-steps, with room, are a PUSH (41_foreground.md R112), in a turn each. -/
theorem turnsTo_pushed {w r : Nat} (hi : s.Inv) (hf : s.fg = none) (hirq : s.irq = none)
    (hws : s.fgIn = encode (.enq v) :: ws) (hw : s.tx.writeIndex = some w) (hr : s.tx.readIndex = some r)
    (hne : counterSub s.cfg w r ≠ s.cfg.cap .tx) :
    TurnsTo (List.replicate 4 ⟨.fg, .micro⟩) s (s.pushed v w ws) := by
  have hi0 : (startAt (.enq v) (s.setWords .fg ws)).Inv := inv_startAt_fg rfl hf (Inv_congr rfl rfl rfl rfl rfl rfl hi)
  have h1 : TurnTo ⟨.fg, .micro⟩ s ((s.setWords .fg ws).setFg (some (.enq (.e2 v r)))) :=
    turnTo_micro_word (i := .enq v) (mover_of_irq_idle hirq .fg) (by simp [Instr.port, hf]) hws
      ((microStep_fg (Inv_inBounds hi0) rfl).trans (enq_e1_next.mpr ⟨r, hr, rfl⟩))
  have h2 : TurnTo ⟨.fg, .micro⟩ _ ((s.setWords .fg ws).setFg (some (.enq (.e3 v)))) :=
    turnTo_fgMicro (h1.inv hi) hirq rfl (enq_e2_next.mpr ⟨w, hw, (if_neg hne).symm⟩)
  have hi2 := h2.inv (h1.inv hi)
  have h3 := turnTo_fgMicro hi2 hirq rfl (enq_e3_next.mpr ⟨w, hw, rfl⟩)
  have h4 := turnTo_fgMicro (h3.inv hi2) hirq rfl (enq_e4_next.mpr ⟨w, hw, rfl⟩)
  exact .cons h1 (.cons h2 (.cons h3 (.cons h4 .nil)))

theorem pushed_queue {w r : Nat} (hw : (s.ring .tx).writeIndex = some w) (hr : (s.ring .tx).readIndex = some r)
    (hlt : counterSub s.cfg w r < s.cfg.cap .tx) : (s.pushed v w ws).queue .tx = s.queue .tx ++ [some v] :=
  queue_enqueue hw hr hlt rfl rfl

/-- A run that has ended has nothing more to do. -/
theorem runMicro_add {n : Nat} (h : runMicro p n s = .next t) (ht : t.inFlight p = false) (k : Nat) :
    runMicro p (n + k) s = .next t := by
  induction n generalizing s with
  | zero => cases h; exact runMicro_idle ht
  | succ n ih =>
    cases hf : s.inFlight p
    case false => exact (runMicro_idle hf).trans ((runMicro_idle hf).symm.trans h)
    case true =>
      rw [Nat.add_right_comm]
      simp only [runMicro, hf, if_true] at h ⊢
      obtain ⟨u, hu, h⟩ := andThen_eq_next.mp h
      refine andThen_eq_next.mpr ⟨u, hu, ?_⟩
      split at h
      · next hh => exact (if_pos hh).trans h
      · next hh => exact (if_neg hh).trans (ih h)

/-- A whole turn of FG at E5 with `tx_armed` false runs the arm phase (41_foreground.md R113): it arms and enables whatever is queued by then. -/
theorem turnTo_armed {e : Bool} {n : Nat} (hi : s.Inv) (hirq : s.irq = none) (hf : s.fg = some (.enq .e5))
    (hx : s.triple = some ⟨false, e, n⟩) (hh : s.hooks.getLsbD 2 = true) :
    ∃ t, TurnTo ⟨.fg, .whole⟩ s t ∧ t.fg = none ∧ t.irq = none ∧ t.hooks = s.hooks ∧ t.irqIn = s.irqIn ∧
      t.triple = some ⟨true, true, n⟩ ∧ t.hookOut = s.hookOut ++ [.setTxEn true] ∧ t.rspOut = s.rspOut ++ [⟨.ok, 0⟩] := by
  obtain ⟨ha, -, ho⟩ := triple_eq_some_iff.mp hx
  have hin := within_of_not_inInit (Inv_inBounds hi) (inInit_of_op hf nofun)
  have hb : s.bound .setTxEn = true := hh
  refine ⟨(kickIf false (armIf false s)).returns .ok 0, ?_, rfl, ?_, ?_, ?_, ?_, ?_, ?_⟩
  · exact turnTo_whole (mover_of_irq_idle hirq .fg) (by simp [hf]) (runMicro_add (runMicro_enq_arm hin hf ha) rfl 4)
  · simp [hirq]
  · simp
  · simp
  · refine triple_eq_some_iff.mpr ⟨by simp, by simpa [State.bound] using .inl hb, ?_⟩
    simpa [State.occ, State.ring] using ho
  · simpa [State.bound] using hb
  · simp

/-- A whole turn of IRQ with a word waiting is the callback. -/
theorem turnTo_txrdy (hirq : s.irq = none) (hw : s.irqIn = encode .txrdy :: ws) (h : exec .txrdy (s.setWords .irq ws) = .next t) :
    TurnTo ⟨.irq, .whole⟩ s t :=
  turnTo_whole_word (i := .txrdy) (fun _ => mover_irq) (by simp [Instr.port, hirq]) hw h

/-! ### ENQ inside a TXRDY that has found nothing -/

/-- A callback's labelled micro-step, in the turn for it. -/
theorem turnTo_callback {q : IrqPos} (hin : ∀ b, s.within b = true) (h : irqMicro q (s.enterCallback q) = .next t) :
    TurnTo ⟨.irq, .micro⟩ (s.enterCallback q) t :=
  turnTo_micro (fun _ => mover_irq) rfl
    ((microStep_irq (s := s.enterCallback q) (inBounds_of_within (hin .tx) (hin .rx)) rfl).trans h)

/-- TXRDY's first three micro-steps on an empty buffer lead to T9 (42_interrupt.md R130), in a turn each. -/
theorem turnsTo_t9 {w r : Nat} (hb : s.inBounds = true) (hn : s.inInit = false) (hirq : s.irq = none)
    (hws : s.irqIn = encode .txrdy :: ws) (hs : s.hooks.getLsbD 0 = true) (hw : s.tx.writeIndex = some w)
    (hr : s.tx.readIndex = some r) (h0 : counterSub s.cfg w r = 0) :
    TurnsTo (List.replicate 3 ⟨.irq, .micro⟩) s ((s.setWords .irq ws).enterCallback (.txrdy .t9)) := by
  have hn' : (s.setWords .irq ws).inInit = false := hn
  have hin : ∀ b, (s.setWords .irq ws).within b = true := fun b => (setWords_within s _ ws).trans (within_of_not_inInit hb hn b)
  have h1 : TurnTo ⟨.irq, .micro⟩ s ((s.setWords .irq ws).enterCallback (.txrdy .t2)) :=
    turnTo_micro_word (i := .txrdy) (fun _ => mover_irq) (by simp [Instr.port, hirq]) hws
      ((microStep_irq (s := (s.setWords .irq ws).enterCallback (.txrdy .t1)) (inBounds_of_within (hin .tx) (hin .rx)) rfl).trans
        (txrdy_t1_next.mpr ⟨enterCallback_initRaced hn', hs, rfl⟩))
  have h2 : TurnTo ⟨.irq, .micro⟩ _ ((s.setWords .irq ws).enterCallback (.txrdy (.t3 w))) :=
    turnTo_callback hin (txrdy_t2_next.mpr ⟨enterCallback_initRaced hn', w, hw, rfl⟩)
  have h3 : TurnTo ⟨.irq, .micro⟩ _ ((s.setWords .irq ws).enterCallback (.txrdy (if counterSub s.cfg w r = 0 then .t9 else .t4))) :=
    turnTo_callback hin (txrdy_t3_next.mpr ⟨enterCallback_initRaced hn', r, hr, rfl⟩)
  rw [if_pos h0] at h3
  exact .cons h1 (.cons h2 (.cons h3 .nil))

/-- T9 disables the hardware if it can, whatever is queued by then. -/
theorem turnTo_disabled {x : Triple} (hi : s.Inv) (hn : s.inInit = false) (hc : s.irq = some ⟨.txrdy .t9, false⟩)
    (hx : s.triple = some x) (he : s.hooks.getLsbD 2 = true) :
    ∃ t, TurnTo ⟨.irq, .micro⟩ s t ∧ t.triple = some { x with enabled := false } ∧ t.hookOut = s.hookOut ++ [.setTxEn false] := by
  obtain ⟨ha, -, ho⟩ := triple_eq_some_iff.mp hx
  have hb : s.bound .setTxEn = true := he
  have hr : s.initRaced = false := by simp [State.initRaced, hn, hc]
  refine ⟨(s.emitIfBound (.setTxEn false)).endCallback, ?_, triple_eq_some_iff.mpr ⟨by simpa using ha, by simp [hb], ?_⟩, by simp [hb]⟩
  · exact turnTo_micro (fun _ => mover_irq) (by simp [hc])
      ((microStep_irq (Inv_inBounds hi) hc).trans (txrdy_t9_next.mpr ⟨hr, rfl⟩))
  · exact (emitIfBound_occ s _ .tx).trans ho

/-- No operation but INIT brings about an INIT. -/
theorem exec_inInit (hne : opOf i ≠ .init) (hn : s.inInit = false) (h : exec i s = .next t) : t.inInit = false := by
  refine exec_induction (P := fun u => u.inInit = false) ?_ (fun u v ho hu hv => (microStep_inInit ho hne hv).trans hu) h
  cases i
  case txrdy | rxbyte => exact hn
  all_goals rfl

end Sys2Proof.Machine

open Sys2Proof Sys2Proof.Machine

/-- Settles O58: the TXRDY that falls before E5 sends the byte and finds nothing to disarm, so E5 reads false and arms an empty buffer, which the next
TXRDY disables without clearing `tx_armed`. -/
theorem lostArmRace : Obligations.LostArmRace := by
  unfold Obligations.LostArmRace
  intro s b fw iw ts hi hf hirq hh hx hfw hiw hts
  obtain ⟨ha, hen, ho⟩ := triple_eq_some_iff.mp hx
  obtain ⟨⟨-, w, r, hw, hr, -⟩, -⟩ := buffersOk_of_idle hi hf (by simp [ha])
  have h0 : counterSub s.cfg w r = 0 := Option.some.inj ((occ_eq hw hr).symm.trans ho)
  have hlt : counterSub s.cfg w r < s.cfg.cap .tx := h0 ▸ cap_pos _ _
  have hq : (s.pushed b w fw).queue .tx = [some b] := by
    rw [pushed_queue hw hr hlt, List.length_eq_zero_iff.mp ((queue_length hw hr).trans h0), List.nil_append]
  have hpush := turnsTo_pushed hi hf hirq hfw hw hr hlt.ne
  have hi1 := hpush.inv hi
  obtain ⟨t, ht, htq, htout, htarm, hten, -⟩ :=
    exec_txrdy_takes (s := (s.pushed b w fw).setWords .irq (encode .txrdy :: iw))
      (Inv_congr rfl rfl rfl rfl rfl rfl hi1) rfl hirq (by simp [State.pushed, ha]) (by simp [State.pushed, hh]) hq
  have hsend := turnTo_txrdy (s := s.pushed b w fw) hirq hiw ht
  have hti := hsend.inv hi1
  obtain ⟨hfr, -⟩ := exec_frame ht
  have hth : t.hooks = 0b111#3 := (hfr.hooks nofun).trans hh
  have htf : t.fg = some (.enq .e5) := exec_fg ht nofun
  have htx : t.triple = some ⟨false, true, 0⟩ := by
    rw [triple_eq hti (inInit_of_op htf nofun) htarm, htq, hten]
    exact congrArg (fun e => some (Triple.mk false e 0)) hen
  obtain ⟨u, harm, huf, huirq, huh, huin, hux, huout, hursp⟩ :=
    turnTo_armed hti ((exec_irq ht nofun).trans hirq) htf htx (by simp [hth])
  have hui := harm.inv hti
  obtain ⟨z, hz, hzx, hzout⟩ := exec_txrdy_empty_moves (s := u.setWords .irq iw) (Inv_congr rfl rfl rfl rfl rfl rfl hui) huf hux huirq
    (by simp [huh, hth]) (by simp [huh, hth]) rfl
  have hdis := turnTo_txrdy huirq (huin.trans hfr.irqIn) hz
  refine ⟨_, (hpush.append (.cons hsend (.cons harm (.cons hdis .nil)))).run hts, hzx, (exec_fg hz nofun).trans huf,
    (exec_irq hz nofun).trans huirq, hzout.trans ?_, ((exec_frame hz).1.rspOut rfl).trans ?_⟩
  · simp [huout, htout, State.pushed]
  · simp [hursp, hfr.rspOut rfl, State.pushed]

/-- Settles O60: the TXRDY has found nothing at T3, and its T9 disables the hardware after the ENQ has armed it. -/
theorem interleaveLosesArm : Obligations.InterleaveLosesArm := by
  unfold Obligations.InterleaveLosesArm
  intro s b fw iw ts hi hf hirq hsched hh hx hfw hiw hts
  obtain ⟨ha, -, ho⟩ := triple_eq_some_iff.mp hx
  obtain ⟨⟨-, w, r, hw, hr, -⟩, -⟩ := buffersOk_of_idle hi hf (by simp [ha])
  have hn : s.inInit = false := by simp [State.inInit, hf]
  have h0 : counterSub s.cfg w r = 0 := Option.some.inj ((occ_eq hw hr).symm.trans ho)
  have hn' : (((s.setWords .irq iw).enterCallback (.txrdy .t9)).setWords .fg fw).inInit = false := hn
  have ht9 := turnsTo_t9 (Inv_inBounds hi) hn hirq hiw (by simp [hh]) hw hr h0
  obtain ⟨t, ht, -, htx, htout⟩ := exec_enq_moves (s := ((s.setWords .irq iw).enterCallback (.txrdy .t9)).setWords .fg fw)
    (Inv_congr rfl rfl rfl rfl rfl rfl (ht9.inv hi)) hf hx b (by simp [hh]) (cap_pos _ _)
  have henq : TurnTo ⟨.fg, .whole⟩ _ t := turnTo_whole_word (s := (s.setWords .irq iw).enterCallback (.txrdy .t9)) (i := .enq b)
    (fun _ => mover_fg (.inr hsched)) (by simp [Instr.port, hf]) hfw ht
  have hth : t.hooks = 0b111#3 := ((exec_frame ht).1.hooks nofun).trans hh
  obtain ⟨u, hdis, hux, huout⟩ := turnTo_disabled (henq.inv (ht9.inv hi)) (exec_inInit (i := .enq b) nofun hn' ht) (exec_irq ht nofun) htx
    (by simp [hth])
  exact ⟨_, (ht9.append (.cons henq (.cons hdis .nil))).run hts, hux, huout.trans (by simp [htout])⟩

end
